-- ==== Sys2Proof/Word.lean ====
section
/-! DEFINITION. The word types of the Ignar-4 and the sparse-table type its stores are held in. -/

namespace Sys2Proof

/-- A byte of a table, a record or a Ridge frame. -/
abbrev Byte := BitVec 8

/-- A register word (spec 00, "Register access": registers are 32 bits wide). -/
abbrev Word := BitVec 32

/-- A 64-bit value: a Meridian count, a completion counter, a fairness value. -/
abbrev DWord := BitVec 64

/-- A sparse table: keys strictly rising, and no entry equal to what an unlisted key reads as.
The reading and writing functions stand in `Sys2Proof/Machine/Bits.lean`. -/
abbrev Table (α : Type) := List (Nat × α)

end Sys2Proof
end

