-- ==== Sys2Proof/Syntax.lean ====
section
/-! DEFINITION. The commands of the block: one constructor per row of `spec/opcode_table.json`, in the
table's order, and the operand types they carry. A register-write row carries the written word and its four
parity bits as they stand on the register port (R34, R37); a response or event row carries what the port
brings, and a quantity the manual measures (R345, R347) rather than computes. -/

namespace Sys2Proof

/-- One 64-byte beat of a memory read transfer with its byte parity (R34, R41). -/
structure Beat where
  data : BitVec 512
  par  : BitVec 64
  deriving DecidableEq, Repr

/-- How a Ridge frame came over the wire: the parity bit of each byte, and whether the framing or rg_rx_err spoiled it
(R34, R46). -/
structure RxWire where
  par : List Bool
  err : Bool
  deriving DecidableEq, Repr

/-- What parity found in the run of an adapter (R117). -/
inductive AdapterParity where
  /-- Weight-stage read of this panel of the adapter, in address order (R123). -/
  | panel (n : Nat)
  /-- Activation-buffer read of this pass row. -/
  | activation (row : Nat)
  /-- Operand at a cube input, or the result buffer, of this physical array. -/
  | array (n : Nat)
  deriving DecidableEq, Repr

/-- What parity found at the end of a tile (R117, R376), in the run of the adapter at the head of the chunk's list, or in a
region of the SRAM outside the pass (R376). -/
inductive TileParity where
  | clean
  /-- Activation-buffer read of this pass row (R117). -/
  | activation (row : Nat)
  /-- Operand at a cube input, or the result buffer, of this physical array (R117). -/
  | array (n : Nat)
  /-- Working copy of the candidate store (R376). -/
  | working
  /-- Stored row state or heap of this row group; the byte offset of the failing word (R376, R378). -/
  | stored (group : Nat) (offset : DWord)
  /-- Ridge receive buffer: this one of the early frames it holds, oldest first (R376). -/
  | received (frame : Nat)
  /-- A region that has no remedy: request table, history store, mask region, Other; the byte offset (R376). -/
  | region (offset : DWord)
  /-- The run of an adapter, which ends without its result (R117). -/
  | adapter (parity : AdapterParity)
  deriving DecidableEq, Repr

/-- A weight-stage panel whose read mismatched: column group `q`, unit `u` (R106, R117). -/
structure BadPanel where
  q : Nat
  u : Nat
  deriving DecidableEq, Repr

/-- What the block measures over a step: cycles of stall or up to the abandonment (R94, R346) and the
power controller's own energy measurement in nJ (R406). -/
structure Measure where
  cycles : Nat
  energy : Nat
  deriving DecidableEq, Repr

/-- The raw rail integrals a STEP_END or IDLE strobe carries (R419, R422). -/
structure Rails where
  cmp  : Nat
  base : Nat
  sram : Nat
  deriving DecidableEq, Repr

/-- Causes of the clock monitor (R387). -/
inductive MonCause where
  | lockLost | ratio | refclkLost
  deriving DecidableEq, Repr

/-- The rails whose fall acts as rst_n (R58). -/
inductive BaseRail where
  | base | sram | io
  deriving DecidableEq, Repr

/-- The two SFU stores that are switched by epoch (R144, R145). -/
inductive SfuStore where
  | prog | freq
  deriving DecidableEq, Repr

/-- The commands the block takes, one per row of the table. -/
inductive Instr where
  | registerWrite (addr : BitVec 24) (data : Word) (par : BitVec 4)
  | latchingRead (addr : BitVec 24)
  | tableWindowWrite (addr : BitVec 24) (data : Word) (par : BitVec 4)
  | launchPush (data : Word) (par : BitVec 4)
  | meridianWord (bits : BitVec 72)
  | launch (remaining : Nat) (m : Measure)
  | batchForm
  | guardCheckBegin
  | guardPoll
  | guardTimeout (m : Measure)
  | memReadResponse (port tag : Nat) (beats : List Beat) (last : Bool) (err : BitVec 2)
  | memWriteResponse (port tag : Nat) (err : BitVec 2)
  | memTimeout (port tag : Nat) (write : Bool)
  | rowNormalised (row : Nat)
  | adapterRun
  | tileComplete (parity : TileParity)
  | deliveryBlock (frozen : Nat) (freeze : List Nat) (bad : Option BadPanel)
  | deliveryFold (laneFreeze : Nat)
  | passPark
  | decision (rescanCycles : Nat)
  | genDraw
  | requestCommitStart (entry : Nat)
  | stateRecordWrite (entry : Nat)
  | requestCommitted (entry : Nat)
  | doneCounterWrite
  | stepDone (m : Measure)
  | cmdNone (entry : Nat)
  | cmdAdmit (entry : Nat)
  | cmdImport (entry : Nat)
  | cmdCancel (entry : Nat)
  | cmdBlock (entry : Nat)
  | cmdUnblock (entry : Nat)
  | cmdPause (entry : Nat)
  | cmdChunk (entry : Nat)
  | cmdExport (entry : Nat)
  | cmdRelease (entry : Nat)
  | cmdClear (entry : Nat)
  | spillCancel (dir : Nat)
  | spillBlock (dir : Nat)
  | spillUnblock (dir : Nat)
  | resume (dir : Nat)
  | spillRelease (dir : Nat)
  | ttlExpiry (dir : Nat)
  | transferDone (entry : Nat)
  | grant (tenant : BitVec 10) (data : Word) (par : BitVec 4)
  | faultClear (tenant : BitVec 10) (data : Word) (par : BitVec 4)
  | tenantReset (tenant : BitVec 10) (data : Word) (par : BitVec 4)
  | progSwitch (data : Word) (par : BitVec 4)
  | freqSwitch (data : Word) (par : BitVec 4)
  | sfuTableCheckDone (store : SfuStore)
  | maskSwitch (data : Word) (par : BitVec 4)
  | autoSwitch (data : Word) (par : BitVec 4)
  | biasSwitch (data : Word) (par : BitVec 4)
  | penSwitch (data : Word) (par : BitVec 4)
  | selTableCheckDone
  | genGo (data : Word) (par : BitVec 4)
  | switch (data : Word) (par : BitVec 4)
  | rollback (data : Word) (par : BitVec 4)
  | cfgCheckDone
  | confirm (data : Word) (par : BitVec 4)
  | loadGo (data : Word) (par : BitVec 4)
  | loadBeat
  | repairApply (data : Word) (par : BitVec 4)
  | repairApplyDone
  | corrClear (data : Word) (par : BitVec 4)
  | stateReqRun (data : Word) (par : BitVec 4)
  | stateReqDrain (data : Word) (par : BitVec 4)
  | stateReqRetain (data : Word) (par : BitVec 4)
  | stateReqOff (data : Word) (par : BitVec 4)
  | cmpIsolated
  | forceFault (data : Word) (par : BitVec 4)
  | blockSoftReset (data : Word) (par : BitVec 4)
  | resetComplete
  | pageSoftReset (page : BitVec 12) (data : Word) (par : BitVec 4)
  | gateRequest (page : BitVec 12) (data : Word) (par : BitVec 4)
  | wakeRequest (page : BitVec 12) (data : Word) (par : BitVec 4)
  | gateEffect (page : BitVec 12)
  | wakeDone (page : BitVec 12)
  | usePllSet (data : Word) (par : BitVec 4)
  | haltClear (data : Word) (par : BitVec 4)
  | xltRetry (data : Word) (par : BitVec 4)
  | xltAbort (data : Word) (par : BitVec 4)
  | fqPop (data : Word) (par : BitVec 4)
  | invalGo (data : Word) (par : BitVec 4)
  | invalDone
  | ridgeFrameRx (bytes : List Byte) (damaged : RxWire) (m : Measure)
  | batchMessage (m : Measure)
  | pullMessage
  | partMessage (src : Nat) (m : Measure)
  | nakMessage (src : Nat)
  | rescanMessage
  | windowMessage (src : Nat) (m : Measure)
  | commitMessage
  | abandonMessage (m : Measure)
  | absentMessage (src : Nat) (m : Measure)
  | nakWaitExpiry (m : Measure)
  | ridgeTimeout (m : Measure)
  | rstNAssert
  | rstNDeassert (strap : BitVec 4)
  | sramInitDone
  | pgCmpFall
  | pgCmpRise
  | pgBaseFall (rail : BaseRail)
  | pgMtrFall
  | pgMtrRise
  | testModeRise
  | dawnWindow (count : BitVec 16)
  | dawnStrapExpiry
  | pllLock
  | monitorTrip (cause : MonCause)
  | dividerRampStep
  | rampSlotEnd
  | thermalEval (temp : BitVec 8) (sensor : BitVec 4) (watts : Nat) (remaining : Nat)
  | sealKeyByte (byte : Byte) (last : Bool)
  | intent (bad : Bool)
  | confirmStrobe (bad : Bool)
  | strobeCancel (bad : Bool)
  | discard (bad : Bool)
  | openDrop (bad : Bool)
  | stepRows (bad : Bool)
  | stepEnd (rails : Rails) (bad : Bool)
  | idle (rails : Rails) (bad : Bool)
  | countStrobe (bad : Bool)
  | clockStrobe (bad : Bool)
  | recMaxExpiry
  | cairnRecord
  | cairnRecordEnd
  | mcSyncRiseInWord
  | pgBaseRise (rail : BaseRail)
  | refclkFirstEdge
  deriving DecidableEq, Repr

end Sys2Proof
end

