-- ==== Sys2Proof/Decode.lean ====
section
/-! DEFINITION. The decoder over the rows of the opcode table that give bits. No row of this block's table
gives any: a command comes from a port, a pin or an event inside the block, and no word spells it. -/

namespace Sys2Proof

/-- The command that `nbits` bits `w` spell by the table: none, since no row gives bits. -/
def decodeTableWord (_nbits _w : Nat) : Option Instr := none

end Sys2Proof
end

