-- ==== Sys2Proof/Config.lean ====
section
/-! DEFINITION. What an implementation fixes and the values the manual leaves open. -/

namespace Sys2Proof

/-- A value the manual does not state: the k-th such value of a run. Nothing constrains it
(log entry 1). -/
opaque Config.freeWord : Nat → Word

/-- What a Ridge row record carries in a field whose flag says it is not valid (R319): a function of the step and
the place, since a retransmission rebuilds the same bytes (R328). Nothing constrains it (log entry 1). -/
opaque Config.partFill : Nat → Nat → Word

/-- Final score of a peer's residual column where its row record does not name it: a function of the request, the position,
the slot and the column, since a request's results vary with nothing else (R342). Nothing constrains it (log entry 1). -/
opaque Config.residScore : Nat → Nat → Nat → Nat → Word

/-- Whether the tokens that a natural stop discards are charged to their tenant: R287 says that they are, R237 that they are not.
Nothing constrains it (log entry 128). -/
opaque Config.chargesDropped : Bool

end Sys2Proof
end

