-- ==== Sys2Proof/Machine/Bits.lean ====
section
/-! DEFINITION. Sparse tables, byte strings, bit fields, parity and the three check codes of the manual. -/

namespace Sys2Proof.Machine

/-! Sparse tables: `d` says what an unlisted key reads as. -/

/-- What key `k` reads as. -/
def tget {α : Type} (d : Nat → α) : Table α → Nat → α
  | [], k => d k
  | (j, v) :: m, k => if j = k then v else tget d m k

/-- Enter the pair of `k` and `v` at its place. -/
def tput {α : Type} : Table α → Nat → α → Table α
  | [], k, v => [(k, v)]
  | (j, w) :: m, k, v =>
    if k < j then (k, v) :: (j, w) :: m
    else if k = j then (k, v) :: m
    else (j, w) :: tput m k v

/-- Write `v` at key `k`, keeping the canonical form: a value that an unlisted key reads as anyway is not listed. -/
def tset {α : Type} [DecidableEq α] (d : Nat → α) (m : Table α) (k : Nat) (v : α) : Table α :=
  if v = d k then m.filter fun e => e.1 ≠ k else tput m k v

/-- Change what key `k` reads as. -/
def tmod {α : Type} [DecidableEq α] (d : Nat → α) (m : Table α) (k : Nat) (f : α → α) : Table α :=
  tset d m k (f (tget d m k))

/-- The canonical form: keys strictly rising, no entry equal to the default of its key. -/
def twf {α : Type} [DecidableEq α] (d : Nat → α) : Table α → Bool
  | [] => true
  | [(k, v)] => decide (v ≠ d k)
  | (k, v) :: (j, w) :: m => decide (v ≠ d k) && decide (k < j) && twf d ((j, w) :: m)

/-- The default of a store whose words read zero where nothing was written. -/
def zeroWord : Nat → Word := fun _ => 0

/-- Clear every key of a store that lies in `[lo, hi)`. -/
def tclear {α : Type} (m : Table α) (lo hi : Nat) : Table α :=
  m.filter fun e => decide (e.1 < lo) || decide (hi ≤ e.1)

/-! Bit fields of words and of wider numbers. -/

/-- Bits `[hi:lo]` of a word as a number (notation of spec 00). -/
def bits (w : Word) (hi lo : Nat) : Nat := (w.toNat / 2 ^ lo) % 2 ^ (hi + 1 - lo)

/-- Bit `i` of a word. -/
def bit (w : Word) (i : Nat) : Bool := w.toNat.testBit i

/-- Bits `[hi:lo]` of a number. -/
def nbits (n hi lo : Nat) : Nat := (n / 2 ^ lo) % 2 ^ (hi + 1 - lo)

/-- A Boolean as 0 or 1. -/
def b2n (b : Bool) : Nat := if b then 1 else 0

/-- A word from a number, keeping its low 32 bits. -/
def w32 (n : Nat) : Word := BitVec.ofNat 32 n

/-- The two 32-bit halves of a 64-bit register pair. -/
def loWord (n : Nat) : Word := w32 n

/-- The upper half. -/
def hiWord (n : Nat) : Word := w32 (n / 4294967296)

/-- Saturating 32-bit count. -/
def sat32 (n : Nat) : Nat := min n 0xFFFFFFFF

/-- Saturation at 2⁶⁴ − 1 (R290, R417). -/
def sat64 (n : Nat) : Nat := min n 0xFFFFFFFFFFFFFFFF

/-- Saturation at the limits of i32 (R280, R285, R287). -/
def satI32 (x : Int) : Int := max (-2147483648) (min x 2147483647)

/-- Ceiling of a division; zero when the divisor is zero. -/
def cdiv (a b : Nat) : Nat := if b = 0 then 0 else (a + b - 1) / b

/-! Byte strings, little-endian (R10). -/

/-- `n` bytes of the number `v`, byte 0 first. -/
def leBytes : Nat → Nat → List Byte
  | 0, _ => []
  | n + 1, v => BitVec.ofNat 8 v :: leBytes n (v / 256)

/-- The number a byte string spells. -/
def leNat : List Byte → Nat
  | [] => 0
  | b :: bs => b.toNat + 256 * leNat bs

/-- `n` zero bytes. -/
def zeros (n : Nat) : List Byte := List.replicate n 0

/-- Bytes `[off, off + n)` of a string, zero beyond its end. -/
def slice (bs : List Byte) (off n : Nat) : List Byte :=
  let p := (bs.drop off).take n
  p ++ zeros (n - p.length)

/-- The little-endian number in bytes `[off, off + n)`. -/
def numAt (bs : List Byte) (off n : Nat) : Nat := leNat (slice bs off n)

/-- Write the string `xs` over bytes from `off` of `bs`. -/
def overlay (bs : List Byte) (off : Nat) (xs : List Byte) : List Byte :=
  slice bs 0 off ++ xs ++ bs.drop (off + xs.length)

/-- The bytes of a list of words. -/
def wordsBytes (ws : List Word) : List Byte := ws.flatMap fun w => leBytes 4 w.toNat

/-- Whether every byte is zero. -/
def allZero (bs : List Byte) : Bool := bs.all fun b => b = 0

/-- The `n` numbers 0 … n − 1. -/
def upto (n : Nat) : List Nat := List.range n

/-- The 64 bytes of a beat, byte 0 in bits [7:0] (R41, R10). -/
def beatBytes (b : BitVec 512) : List Byte := leBytes 64 b.toNat

/-- The bytes of the words `[first, first + n)` of a word store. -/
def storeBytes (m : Table Word) (first n : Nat) : List Byte :=
  (upto n).flatMap fun i => leBytes 4 (tget zeroWord m (first + i)).toNat

/-- Write bytes over the word store from word `first` on; the length is a multiple of four. -/
def storePut (m : Table Word) (first : Nat) (bs : List Byte) : Table Word :=
  (upto (bs.length / 4)).foldl
    (fun acc i => tset zeroWord acc (first + i) (w32 (numAt bs (4 * i) 4))) m

/-! Odd byte parity (R34). -/

/-- How many ones the low `n` bits of a number hold. -/
def ones : Nat → Nat → Nat
  | 0, _ => 0
  | n + 1, v => v % 2 + ones n (v / 2)

/-- The parity bit of a byte: the nine bits hold an odd number of ones (R34). -/
def oddPar (v : Nat) : Nat := (ones 8 v + 1) % 2

/-- The parity bits of `n` bytes of `v`, that of byte 0 in bit 0. -/
def parBits : Nat → Nat → Nat
  | 0, _ => 0
  | n + 1, v => oddPar v + 2 * parBits n (v / 256)

/-- The parity bit of one byte. -/
def bytePar (b : Byte) : Bool := oddPar b.toNat = 1

/-- The four parity bits of a word. -/
def wordPar (w : Word) : BitVec 4 := BitVec.ofNat 4 (parBits 4 w.toNat)

/-- Whether the parity of write data matches (R37). -/
def wparOk (data : Word) (par : BitVec 4) : Bool := parBits 4 data.toNat = par.toNat

/-- Whether a beat's parity matches (R43). -/
def beatOk (b : Beat) : Bool := parBits 64 b.data.toNat = b.par.toNat

/-! Check codes. -/

/-- One step of the CRC-8 register: feedback is the bit XOR register bit 7, polynomial 0x07 (R48). -/
def crc8Bit (r : BitVec 8) (b : Bool) : BitVec 8 :=
  let fb := b != r.getLsbD 7
  let s := r <<< 1
  if fb then s ^^^ 0x07#8 else s

/-- CRC-8 over the low `n` bits of `v`, bit 0 first (R48, R419). -/
def crc8 : Nat → Nat → BitVec 8 → BitVec 8
  | 0, _, r => r
  | n + 1, v, r => crc8 n (v / 2) (crc8Bit r (v % 2 = 1))

/-- One step of the reflected CRC-32 register (R313). -/
def crc32Bit (r : BitVec 32) : BitVec 32 :=
  if r.getLsbD 0 then (r >>> 1) ^^^ 0xEDB88320#32 else r >>> 1

/-- One byte into the CRC-32 register. -/
def crc32Byte (r : BitVec 32) (b : Byte) : BitVec 32 :=
  let x := r ^^^ b.zeroExtend 32
  crc32Bit (crc32Bit (crc32Bit (crc32Bit (crc32Bit (crc32Bit (crc32Bit (crc32Bit x)))))))

/-- The CRC-32 of R313. -/
def crc32 (bs : List Byte) : BitVec 32 := (bs.foldl crc32Byte 0xFFFFFFFF#32) ^^^ 0xFFFFFFFF#32

/-- A string with its CRC-32 appended, little-endian. -/
def withCrc (bs : List Byte) : List Byte := bs ++ leBytes 4 (crc32 bs).toNat

end Sys2Proof.Machine
end

