-- ==== Sys2Proof/Machine/Float.lean ====
section
/-! DEFINITION. Exact values, the number formats of R11, and every floating-point operation of the manual:
operands are widened exactly, the operation is exact, and one rounding to nearest even ends it. -/

namespace Sys2Proof.Machine

/-- An exact value: a NaN, an infinity, or ± m · 2^e (a zero keeps its sign). -/
inductive Val where
  | nan
  | inf (neg : Bool)
  | fin (neg : Bool) (m : Nat) (e : Int)
  deriving DecidableEq, Repr

/-- How a format uses its top exponent field. -/
inductive Special where
  /-- IEEE 754: infinities and NaNs. -/
  | ieee
  /-- OCP FP8 E4M3: only the all-ones code is a NaN. -/
  | oneNan
  /-- OCP E2M1, E2M3, E3M2: every code is finite. -/
  | allFinite
  deriving DecidableEq, Repr

/-- A binary format: exponent bits, fraction bits, bias, and what the top exponent means. -/
structure Fmt where
  eb   : Nat
  fb   : Nat
  bias : Nat
  sp   : Special
  deriving DecidableEq, Repr

/-- The formats of R11. -/
def fp32 : Fmt := ⟨8, 23, 127, .ieee⟩
/-- IEEE binary16. -/
def fp16 : Fmt := ⟨5, 10, 15, .ieee⟩
/-- Upper half of binary32. -/
def bf16 : Fmt := ⟨8, 7, 127, .ieee⟩
/-- The SFU's internal format. -/
def fp24 : Fmt := ⟨8, 15, 127, .ieee⟩
/-- OCP E4M3. -/
def e4m3 : Fmt := ⟨4, 3, 7, .oneNan⟩
/-- OCP E5M2. -/
def e5m2 : Fmt := ⟨5, 2, 15, .ieee⟩
/-- OCP E2M1. -/
def e2m1 : Fmt := ⟨2, 1, 1, .allFinite⟩
/-- OCP E2M3. -/
def e2m3 : Fmt := ⟨2, 3, 1, .allFinite⟩
/-- OCP E3M2. -/
def e3m2 : Fmt := ⟨3, 2, 3, .allFinite⟩

/-- Total bits of a format. -/
def fwidth (f : Fmt) : Nat := 1 + f.eb + f.fb

/-- Code of +inf in an IEEE format. -/
def infCode (f : Fmt) : Nat := (2 ^ f.eb - 1) * 2 ^ f.fb

/-- Largest finite code of a format. -/
def maxCode (f : Fmt) : Nat :=
  match f.sp with
  | .ieee => infCode f - 1
  | .oneNan => 2 ^ (f.eb + f.fb) - 2
  | .allFinite => 2 ^ (f.eb + f.fb) - 1

/-- Canonical NaN (R134). -/
def nanCode (f : Fmt) : Nat := infCode f + 2 ^ (f.fb - 1)

/-- The value a code stands for. -/
def decodeVal (f : Fmt) (c : Nat) : Val :=
  let neg := c.testBit (f.eb + f.fb)
  let mag := c % 2 ^ (f.eb + f.fb)
  let ef := mag / 2 ^ f.fb
  let fr := mag % 2 ^ f.fb
  let fin : Val :=
    if ef = 0 then .fin neg fr (1 - (f.bias : Int) - f.fb)
    else .fin neg (2 ^ f.fb + fr) ((ef : Int) - f.bias - f.fb)
  match f.sp with
  | .ieee => if ef = 2 ^ f.eb - 1 then (if fr = 0 then .inf neg else .nan) else fin
  | .oneNan => if mag = 2 ^ (f.eb + f.fb) - 1 then .nan else fin
  | .allFinite => fin

/-- Shift right by `k` with rounding to nearest, ties to even. -/
def shrRne (m k : Nat) : Nat :=
  let q := m / 2 ^ k
  let r := m % 2 ^ k
  if 2 * r > 2 ^ k || (2 * r = 2 ^ k && q % 2 = 1) then q + 1 else q

/-- Magnitude code of m · 2^e (m > 0) rounded to nearest even, unbounded above. -/
def roundMag (f : Fmt) (m : Nat) (e : Int) : Nat :=
  if m = 0 then 0 else
  let emin : Int := 1 - (f.bias : Int)
  let q : Int := max ((Nat.log2 m : Int) + e) emin - f.fb
  let mant := if q ≤ e then m * 2 ^ (e - q).toNat else shrRne m (q - e).toNat
  (q + f.fb + f.bias - 1).toNat * 2 ^ f.fb + mant

/-- Put the sign bit on a magnitude code. -/
def signed (f : Fmt) (neg : Bool) (mag : Nat) : Nat := if neg then mag + 2 ^ (f.eb + f.fb) else mag

/-- Round a value to an IEEE format: overflow gives ±inf, subnormals are kept (R11, R132). -/
def roundVal (f : Fmt) : Val → Nat
  | .nan => nanCode f
  | .inf neg => signed f neg (infCode f)
  | .fin neg m e => signed f neg (min (roundMag f m e) (infCode f))

/-- Negation of a value. -/
def vneg : Val → Val
  | .nan => .nan
  | .inf n => .inf (!n)
  | .fin n m e => .fin (!n) m e

/-- Exact product (R111). -/
def vmul : Val → Val → Val
  | .nan, _ => .nan
  | _, .nan => .nan
  | .inf a, .inf b => .inf (a != b)
  | .inf a, .fin b m _ => if m = 0 then .nan else .inf (a != b)
  | .fin a m _, .inf b => if m = 0 then .nan else .inf (a != b)
  | .fin a m e, .fin b n k => .fin (a != b) (m * n) (e + k)

/-- A signed integer times 2^e as a value; zero is +0. -/
def ofInt (x : Int) (e : Int) : Val := .fin (decide (x < 0)) x.natAbs e

/-- Signed significand of a finite value at exponent `e` (exact when `e` is not above its own). -/
def sigAt (neg : Bool) (m : Nat) (k e : Int) : Int :=
  let s : Int := (m * 2 ^ (k - e).toNat : Nat)
  if neg then -s else s

/-- Exact sum (R111); an exact zero is +0 unless both operands are −0. -/
def vadd : Val → Val → Val
  | .nan, _ => .nan
  | _, .nan => .nan
  | .inf a, .inf b => if a = b then .inf a else .nan
  | .inf a, .fin _ _ _ => .inf a
  | .fin _ _ _, .inf b => .inf b
  | .fin a m e, .fin b n k =>
    if m = 0 && n = 0 then .fin (a && b) 0 0
    else
      let lo := min e k
      ofInt (sigAt a m e lo + sigAt b n k lo) lo

/-- Scaling by a power of two, exact. -/
def vscale (v : Val) (k : Int) : Val :=
  match v with
  | .fin n m e => .fin n m (e + k)
  | x => x

/-- The value of an FP32 word. -/
def v32 (w : Word) : Val := decodeVal fp32 w.toNat

/-- Round a value to FP32. -/
def rd (v : Val) : Word := w32 (roundVal fp32 v)

/-- FP32 sum, one rounding. -/
def fadd (a b : Word) : Word := rd (vadd (v32 a) (v32 b))
/-- FP32 difference, one rounding. -/
def fsub (a b : Word) : Word := rd (vadd (v32 a) (vneg (v32 b)))
/-- FP32 product, one rounding. -/
def fmul (a b : Word) : Word := rd (vmul (v32 a) (v32 b))
/-- FP32 negation, exact. -/
def fneg (a : Word) : Word := a ^^^ 0x80000000#32

/-- A quotient of naturals times 2^e, to `p` significant bits with a sticky bit below. -/
def quotVal (neg : Bool) (num den : Nat) (e : Int) : Val :=
  if den = 0 then .nan
  else
    let n := num * 2 ^ 96
    .fin neg (2 * (n / den) + (if n % den = 0 then 0 else 1)) (e - 97)

/-- FP32 quotient of a value by a natural, correctly rounded (R214). -/
def fdivNat (a : Word) (h : Nat) : Word :=
  match v32 a with
  | .fin n m e => rd (if m = 0 then .fin n 0 0 else quotVal n m h e)
  | v => rd v

/-- The FP32 word of a natural number. -/
def fofNat (n : Nat) : Word := rd (.fin false n 0)

/-- Whether an FP32 word is a NaN. -/
def fisNan (w : Word) : Bool := bits w 30 0 > 0x7F800000
/-- Whether an FP32 word is an infinity of either sign. -/
def fisInf (w : Word) : Bool := bits w 30 0 = 0x7F800000
/-- Whether an FP32 word is finite. -/
def ffinite (w : Word) : Bool := bits w 30 0 < 0x7F800000
/-- Whether an FP32 word is positive and normal (R155). -/
def fposNormal (w : Word) : Bool := 0x00800000 ≤ w.toNat && w.toNat < 0x7F800000
/-- Whether an FP32 word is finite and above zero. -/
def fpos (w : Word) : Bool := 0 < w.toNat && w.toNat < 0x7F800000

/-- The numeric order of the FP32 words that are no NaN; both zeros have key 0 (R185). -/
def fkey (w : Word) : Int :=
  if bit w 31 then -(bits w 30 0 : Int) else (bits w 30 0 : Int)

/-- a < b as numbers. -/
def flt (a b : Word) : Bool := fkey a < fkey b
/-- a ≤ b as numbers. -/
def fle (a b : Word) : Bool := fkey a ≤ fkey b

/-- −inf, "excluded" (R153). -/
def negInf : Word := 0xFF800000#32
/-- The largest finite FP32 value (R153). -/
def maxFin : Word := 0x7F7FFFFF#32
/-- 1.0. -/
def fone : Word := 0x3F800000#32
/-- log2 e in FP32 (R189). -/
def l2e : Word := 0x3FB8AA3B#32
/-- ln 2 in FP32 (R189). -/
def ln2 : Word := 0x3F317218#32

/-- Balanced pairwise tree over a list whose length is a power of two, FP32 additions (R110, R189, R214). -/
def pairs : List Word → List Word
  | a :: b :: t => fadd a b :: pairs t
  | l => l

/-- The tree of `k` levels over 2^k leaves. -/
def tree : Nat → List Word → Word
  | 0, l => l.headD 0
  | k + 1, l => tree k (pairs l)

/-- tree8 of R110 over eight FP32 words. -/
def tree8 (l : List Word) : Word := tree 3 l

/-- floor(log2 |x|) of a nonzero finite value; subnormals by true exponent (R100). -/
def vexpo : Val → Option Int
  | .fin _ m e => if m = 0 then none else some ((Nat.log2 m : Int) + e)
  | _ => none

/-- Round once to FP16; what lies below −65,504, an overflow to −inf included, saturates there (R191). -/
def logp16 (d : Word) : Nat := if flt d 0xC77FE000#32 then 0xFBFF else roundVal fp16 (v32 d)

end Sys2Proof.Machine
end

