-- ==== Sys2Proof/Machine/Sfu.lean ====
section
/-! DEFINITION. The special-function unit: the table formulas of R131, the seven built-in functions
(R130 to R138), the cosine schedule and position-code phases (R149, R150), and micro-programs (R139 to R143).
Each table entry is an exact real rounded once; R131 says it is exact or not within 2^(−q−20) of a tie, so
the 160-bit fixed-point values computed here round to the same entry. -/

namespace Sys2Proof.Machine

/-- Fraction bits of the fixed-point values the table formulas are computed in. -/
def fxBits : Nat := 160
/-- One in that fixed point. -/
def fxOne : Int := 2 ^ fxBits

/-- Fixed-point product. -/
def fxMul (a b : Int) : Int := (a * b).fdiv fxOne

/-- Σ over j < n of z2^j ÷ (2j + 1 + 2·k): the series of atanh(z) ÷ z, with z2 = z². -/
def atanhSum (z2 : Int) : Nat → Nat → Int → Int
  | 0, _, _ => 0
  | n + 1, k, p => p.fdiv (2 * k + 1) + atanhSum z2 n (k + 1) (fxMul p z2)

/-- ln 2 = 2 · atanh(1/3). -/
def fxLn2 : Int :=
  let z := fxOne.fdiv 3
  2 * fxMul z (atanhSum (fxMul z z) 60 0 fxOne)

/-- arctan(1/n) by its alternating series. -/
def atanInv (n : Int) : Int :=
  let z2 := -(fxOne.fdiv (n * n))
  (atanhSum z2 75 0 fxOne).fdiv n

/-- π by Machin's formula. -/
def fxPi : Int := 16 * atanInv 5 - 4 * atanInv 239

/-- Σ of x^k ÷ k!: the exponential of a fixed-point number below one. -/
def expSum (x : Int) : Nat → Nat → Int → Int
  | 0, _, _ => 0
  | n + 1, k, p => p + expSum x n (k + 1) ((fxMul p x).fdiv (k + 1))

/-- Σ of (−x²)^j ÷ (first · …): cosine with `k` = 0, sine ÷ x with `k` = 1. -/
def trigSum (x2 : Int) : Nat → Nat → Int → Int
  | 0, _, _ => 0
  | n + 1, k, p => p + trigSum x2 n (k + 2) (-((fxMul p x2).fdiv ((k + 1) * (k + 2))))

/-- Largest r with r² ≤ n, over `k` bits from the top. -/
def isqrtGo (n : Nat) : Nat → Nat → Nat
  | 0, r => r
  | k + 1, r => isqrtGo n k (if (r + 2 ^ k) ^ 2 ≤ n then r + 2 ^ k else r)

/-- Integer square root. -/
def isqrt (n : Nat) : Nat := isqrtGo n (Nat.log2 n / 2 + 1) 0

/-- The tabulated functions of R133. -/
inductive TabFn where
  | exp2 | log2 | rcp | rsqrtEven | rsqrtOdd | sin | cos
  deriving DecidableEq, Repr

/-- F(L + i·h) of a table whose step is 1 ÷ n, in fixed point (R133). -/
def tabReal (f : TabFn) (n i : Nat) : Int :=
  match f with
  | .exp2 => expSum (fxMul fxLn2 ((fxOne * i).fdiv n)) 60 0 fxOne
  | .log2 =>
    let t := (3 * fxOne).fdiv 4 + (fxOne * i).fdiv n
    let z := ((t - fxOne) * fxOne).fdiv (t + fxOne)
    let s := atanhSum (fxMul z z) 50 0 fxOne
    (((2 * s * fxOne).fdiv (t + fxOne)) * fxOne).fdiv fxLn2
  | .rcp => (fxOne * n).fdiv (n + i)
  | .rsqrtEven => (isqrt ((fxOne.toNat * fxOne.toNat * n) / (n + i)) : Int)
  | .rsqrtOdd => (isqrt ((fxOne.toNat * fxOne.toNat * n) / (2 * (n + i))) : Int)
  | .sin =>
    let x := (2 * fxPi * i).fdiv n
    fxMul (2 * fxPi) (trigSum (fxMul x x) 25 1 fxOne)
  | .cos =>
    let x := (2 * fxPi * i).fdiv n
    trigSum (fxMul x x) 25 0 fxOne

/-- Entry c0[i] = round_half_even(F · 2^q) (R131). -/
def tabEntry (f : TabFn) (n q i : Nat) : Int := (shrRne (tabReal f n i).toNat (fxBits - q) : Int)

/-- y of R131 for segment i and offset d of b bits. -/
def tabY (f : TabFn) (n q i d b : Nat) : Int :=
  let c0 := tabEntry f n q i
  c0 + ((tabEntry f n q (i + 1) - c0) * d).fdiv (2 ^ b)

/-- Fraction bits of the table values: native 32, compatibility 24 (R131). -/
def tabQ (compat : Bool) : Nat := if compat then 24 else 32

/-- Round a built-in's exact value to the consumer's format: once natively; through FP24 in compatibility
mode (R132, R137). -/
def deliver (compat : Bool) (f : Fmt) (v : Val) : Nat :=
  if compat && f ≠ fp24 then roundVal f (decodeVal fp24 (roundVal fp24 v)) else roundVal f v

/-- Significand in [2^23, 2^24) and exponent e of a nonzero finite value of at most 24 bits. -/
def normSig (m : Nat) (e : Int) : Nat × Int :=
  let l := Nat.log2 m
  (m * 2 ^ (23 - l), (l : Int) + e)

/-- y of a table over a 23-bit fraction m[22:0] (rcp, rsqrt). -/
def yFrac (compat : Bool) (f : TabFn) (fr : Nat) : Int :=
  if compat then tabY f 256 24 (fr / 32768) (fr % 32768) 15
  else tabY f 4096 32 (fr / 2048) (fr % 2048) 11

/-- exp2 (R133, R134). Beyond ±1,024 the rounded result no longer depends on x. -/
def exp2V (compat : Bool) : Val → Val
  | .nan => .nan
  | .inf false => .inf false
  | .inf true => .fin false 0 0
  | .fin neg m e =>
    if m = 0 then .fin false 1 0
    else if (Nat.log2 m : Int) + e > 10 then (if neg then .fin false 0 0 else .inf false)
    else
      -- x · 2^k with k fraction bits, exact
      let k : Nat := max 32 (-e).toNat
      let x := sigAt neg m e (-(k : Int))
      let n := x.fdiv (2 ^ k)
      let f := ((x - n * 2 ^ k).toNat) / 2 ^ (k - 32)
      let y := if compat then tabY .exp2 256 24 (f / 2 ^ 24) (f % 2 ^ 24) 24
               else tabY .exp2 4096 32 (f / 2 ^ 20) (f % 2 ^ 20) 20
      ofInt y (n - tabQ compat)

/-- log2 (R133, R134). -/
def log2V (compat : Bool) : Val → Val
  | .nan => .nan
  | .inf false => .inf false
  | .inf true => .nan
  | .fin neg m e =>
    if m = 0 then .inf true
    else if neg then .nan
    else
      let (s, ex) := normSig m e
      -- m with 24 fraction bits, reduced to [0.75, 1.5)
      let (s, ex) := if s ≥ 3 * 2 ^ 22 then (s, ex + 1) else (2 * s, ex)
      let f : Int := (s : Int) - 2 ^ 24
      let v := s - 3 * 2 ^ 22
      let y := if compat then tabY .log2 256 24 (v / 2 ^ 16) (v % 2 ^ 16) 16
               else tabY .log2 4096 32 (v / 2 ^ 12) (v % 2 ^ 12) 12
      let q : Int := 24 + tabQ compat
      ofInt (ex * 2 ^ q.toNat + f * y) (-q)

/-- Reciprocal (R133, R134). -/
def rcpV (compat : Bool) : Val → Val
  | .nan => .nan
  | .inf n => .fin n 0 0
  | .fin n m e =>
    if m = 0 then .inf n
    else
      let (s, ex) := normSig m e
      .fin n (yFrac compat .rcp (s - 2 ^ 23)).toNat (-ex - tabQ compat)

/-- Reciprocal square root (R133, R134). -/
def rsqrtV (compat : Bool) : Val → Val
  | .nan => .nan
  | .inf false => .fin false 0 0
  | .inf true => .nan
  | .fin n m e =>
    if m = 0 then .inf n
    else if n then .nan
    else
      let (s, ex) := normSig m e
      let odd := ex % 2 = 1
      let y := yFrac compat (if odd then .rsqrtOdd else .rsqrtEven) (s - 2 ^ 23)
      let h : Int := if odd then (ex - 1) / 2 else ex / 2
      .fin false y.toNat (-h - tabQ compat)

/-- Built-in functions of an FP32 operand with an FP32 result. -/
def exp2F (compat : Bool) (x : Word) : Word := w32 (deliver compat fp32 (exp2V compat (v32 x)))
/-- log2 to FP32. -/
def log2F (compat : Bool) (x : Word) : Word := w32 (deliver compat fp32 (log2V compat (v32 x)))
/-- Reciprocal to FP32. -/
def rcpF (compat : Bool) (x : Word) : Word := w32 (deliver compat fp32 (rcpV compat (v32 x)))
/-- Reciprocal square root to FP32. -/
def rsqrtF (compat : Bool) (x : Word) : Word := w32 (deliver compat fp32 (rsqrtV compat (v32 x)))

/-- sin and cos of a phase in units of 2^−32 turn, in format `f` (R135); the quadrant signs are applied
after rounding and every zero is +0. -/
def sinCos (compat : Bool) (f : Fmt) (phase : Nat) : Nat × Nat :=
  let p := phase % 2 ^ 32
  let quad := p / 2 ^ 30
  let g := p % 2 ^ 30
  let g' := if g ≤ 2 ^ 29 then g else 2 ^ 30 - g
  let y (t : TabFn) : Int :=
    if compat then
      (if g' = 2 ^ 29 then tabEntry t 2048 24 256 else tabY t 2048 24 (g' / 2 ^ 21) (g' % 2 ^ 21) 21)
    else
      (if g' = 2 ^ 29 then tabEntry t 16384 32 2048 else tabY t 16384 32 (g' / 2 ^ 18) (g' % 2 ^ 18) 18)
  let q : Int := tabQ compat
  let fs := deliver compat f (ofInt (g' * y .sin) (-(q + 32)))
  let fc := deliver compat f (ofInt (y .cos) (-q))
  let (s, c) := if g ≤ 2 ^ 29 then (fs, fc) else (fc, fs)
  let ng (x : Nat) : Nat := if x = 0 then 0 else x + 2 ^ (f.eb + f.fb)
  match quad with
  | 0 => (s, c)
  | 1 => (c, ng s)
  | 2 => (ng s, ng c)
  | _ => (ng c, s)

/-- An angle in turns as a phase: round_half_even(x · 2^32) mod 2^32 (R135). -/
def turnsPhase : Val → Option Nat
  | .fin neg m e =>
    let k := e + 32
    let a := if k ≥ 0 then m * 2 ^ k.toNat else shrRne m (-k).toNat
    some ((if neg then -(a : Int) else (a : Int)) % 2 ^ 32).toNat
  | _ => none

/-! Micro-programs (R139 to R143). -/

/-- Opcode of an instruction word (R141). -/
def upOp (w : Word) : Nat := bits w 31 26

/-- The valid opcodes of R142. -/
def upValid (op : Nat) : Bool := op ≤ 0x09 || (0x10 ≤ op && op ≤ 0x15) || op = 0x3F

/-- Sign of an FP24 code. -/
def neg24 (c : Nat) : Bool := c.testBit 23

/-- Operand a′: |a| when AA, then negated when NA (R141). -/
def upA (w : Word) (a : Nat) : Nat :=
  let a := if bit w 8 then a % 2 ^ 23 else a
  if bit w 9 then (if neg24 a then a - 2 ^ 23 else a + 2 ^ 23) else a

/-- Numeric order of two FP24 codes that are no NaN. -/
def key24 (c : Nat) : Int := if neg24 c then -((c % 2 ^ 23 : Nat) : Int) else (c % 2 ^ 23 : Nat)

/-- Whether an FP24 code is a NaN. -/
def nan24 (c : Nat) : Bool := c % 2 ^ 23 > infCode fp24

/-- MIN and MAX of R142: NaN if either is NaN; −0 is below +0. -/
def minMax24 (mx : Bool) (a b : Nat) : Nat :=
  if nan24 a || nan24 b then nanCode fp24
  else
    let aLess := key24 a < key24 b || (key24 a = key24 b && neg24 a)
    if aLess != mx then a else b

/-- FLR of R142. -/
def floor24 (a : Nat) : Nat :=
  match decodeVal fp24 a with
  | .fin neg m e =>
    if m = 0 || e ≥ 0 then a
    else
      let k := (-e).toNat
      let v := (if neg then -(m : Int) else (m : Int)).fdiv (2 ^ k)
      roundVal fp24 (ofInt v 0)
  | _ => a

/-- One rounding to FP24 of a sum or product: a zero result is +0 (R132, R140). -/
def round24 (v : Val) : Nat :=
  let x := roundVal fp24 v
  if x = 2 ^ 23 then 0 else x

/-- What DST takes under R142; `wi` are the input words w0 to w3 and `pool` the constant pool. -/
def upResult (compat : Bool) (pool : Nat → Word) (wi : List Word) (w : Word) (a b c : Nat) : Nat :=
  let d := decodeVal fp24
  let r := roundVal fp24
  match upOp w with
  | 0x01 => round24 (vadd (d a) (d b))
  | 0x02 => round24 (vmul (d a) (d b))
  | 0x03 => round24 (vadd (d (round24 (vmul (d a) (d b)))) (d c))
  | 0x04 => minMax24 false a b
  | 0x05 => minMax24 true a b
  | 0x06 => if nan24 a then c else if key24 a ≥ 0 then b else c
  | 0x07 => bits (pool (bits w 7 0)) 23 0
  | 0x08 => floor24 a
  | 0x09 => r (.fin false (2 * bits (wi.getD (bits w 1 0) 0) 31 17 + 1) (-16))
  | 0x10 => r (exp2V compat (d a))
  | 0x11 => r (log2V compat (d a))
  | 0x12 => r (rcpV compat (d a))
  | 0x13 => r (rsqrtV compat (d a))
  | 0x14 => match turnsPhase (d a) with
            | some p => (sinCos compat fp24 p).1
            | none => nanCode fp24
  | _ => match turnsPhase (d a) with
         | some p => (sinCos compat fp24 p).2
         | none => nanCode fp24

/-- Run a program of at most `fuel` instructions from word `pc`; the result of END, or none when it never
came (R140, R142). -/
def upRun (compat : Bool) (store : Nat → Word) (wi : List Word) : Nat → Nat → List Nat → Option Nat
  | 0, _, _ => none
  | fuel + 1, pc, v =>
    let w := store pc
    let reg (hi lo : Nat) := v.getD (bits w hi lo) 0
    let a := upA w (reg 21 18)
    if upOp w = 0x3F then some a
    else if upOp w = 0 then upRun compat store wi fuel (pc + 1) v
    else
      let x := upResult compat (fun k => store (256 + k)) wi w a (reg 17 14) (reg 13 10)
      upRun compat store wi fuel (pc + 1) (v.set (bits w 25 22) x)

/-- Noise hook: up to 8 instructions, w0 the draw word; the result widened to FP32 (R143). -/
def noiseHook (compat : Bool) (store : Nat → Word) (draw : Word) : Word :=
  match upRun compat store [draw] 8 (bits (store 0) 15 1) (List.replicate 16 0) with
  | some r => rd (decodeVal fp24 r)
  | none => w32 (nanCode fp32)

/-- Gumbel noise of a draw word (R194), by the built-in transform. -/
def gumbelBuiltIn (compat : Bool) (w : Word) : Word :=
  let u := rd (.fin false (2 * bits w 31 9 + 1) (-24))
  let b := fneg (fmul (log2F compat u) ln2)
  fneg (fmul (log2F compat b) ln2)

/-- The uniform value of a draw word (R194). -/
def uniformOf (w : Word) : Word := rd (.fin false (2 * bits w 31 9 + 1) (-24))

/-- γ of R150: the schedule hook's program where the epoch enables it, the cosine schedule otherwise;
a NaN or negative result counts as 0 and one above 1 counts as 1. -/
def scheduleGamma (compat : Bool) (store : Nat → Word) (p t i : Nat) : Val :=
  let raw : Val :=
    if bit (store 1) 0 then
      let v0 := roundVal fp24 (quotVal false (i + 1) t 0)
      let v1 := roundVal fp24 (.fin false (i + 1) 0)
      let v2 := roundVal fp24 (.fin false t 0)
      match upRun compat store [w32 p] 64 (bits (store 1) 15 1)
        ([v0, v1, v2] ++ List.replicate 13 0) with
      | some r => decodeVal fp24 r
      | none => .nan
    else
      decodeVal fp32 (sinCos compat fp32 ((i + 1) * 2 ^ 30 / t)).2
  match raw with
  | .nan => .fin false 0 0
  | .inf neg => if neg then .fin false 0 0 else .fin false 1 0
  | .fin neg m e =>
    if neg then .fin false 0 0
    else if m ≠ 0 && (Nat.log2 m : Int) + e ≥ 0 then .fin false 1 0
    else .fin false m e

/-- k_i of R151: positions iteration i commits of `u` uncommitted out of `p`. -/
def scheduleK (compat : Bool) (store : Nat → Word) (p t i u : Nat) : Nat :=
  let m :=
    if i + 1 = t then 0
    else match scheduleGamma compat store p t i with
      | .fin _ m e => if e ≥ 0 then p * m * 2 ^ e.toNat else p * m / 2 ^ (-e).toNat
      | _ => 0
  if u = 0 then 0 else min u (max 1 (u - m))

/-- Position code of one axis list (R149): the (cos, sin) pair of each frequency at position `p`. -/
def rotary (compat : Bool) (f : Fmt) (p : Nat) (freqs : List Word) : List (Nat × Nat) :=
  freqs.map fun w =>
    let sc := sinCos compat f (p * w.toNat % 2 ^ 32)
    (sc.2, sc.1)

end Sys2Proof.Machine
end

