-- ==== Sys2Proof/Machine/Head.lean ====
section
/-! DEFINITION. The arithmetic of the output head: row normalisation and quantisation (R98 to R105), row
statistics (R214, R215), weight panels (R106, R107), the accumulation order of the arrays (R109 to R111) and
private adapters (R122 to R125). Every function here is a value of its arguments alone. -/

namespace Sys2Proof.Machine

/-! ## Formats -/

/-- IN_FMT (R98). -/
def inFmt (c : Nat) : Fmt :=
  match c with
  | 0 => bf16
  | 1 => fp16
  | 2 => e4m3
  | _ => e5m2

/-- Bytes per element of a hidden row (R265). -/
def inBytes (c : Nat) : Nat := if c < 2 then 2 else 1

/-- A block-scaled or plain operand format: element format, bits per element, MX scaling, emax of R105. -/
structure OpFmt where
  elem : Fmt
  bits : Nat
  mx   : Bool
  emax : Int
  deriving DecidableEq, Repr

/-- AFMT (R98). -/
def actFmt (c : Nat) : OpFmt :=
  match c with
  | 0 => ⟨e4m3, 8, false, 8⟩
  | 1 => ⟨e5m2, 8, false, 15⟩
  | 2 => ⟨e4m3, 8, true, 8⟩
  | 3 => ⟨e5m2, 8, true, 15⟩
  | 4 => ⟨e2m1, 4, true, 2⟩
  | 5 => ⟨bf16, 16, false, 127⟩
  | _ => ⟨fp16, 16, false, 15⟩

/-- WFMT (R97). -/
def wgtFmt (c : Nat) : OpFmt :=
  match c with
  | 0 => ⟨e2m1, 4, true, 2⟩
  | 1 => ⟨e2m3, 6, true, 2⟩
  | 2 => ⟨e3m2, 6, true, 4⟩
  | 3 => ⟨e4m3, 8, true, 8⟩
  | 4 => ⟨e5m2, 8, true, 15⟩
  | 5 => ⟨e4m3, 8, false, 8⟩
  | 6 => ⟨e5m2, 8, false, 15⟩
  | 7 => ⟨bf16, 16, false, 127⟩
  | _ => ⟨fp16, 16, false, 15⟩

/-- Adapter FMT (R122) as a weight format. -/
def adpFmt (c : Nat) : OpFmt :=
  match c with
  | 0 => wgtFmt 5
  | 1 => wgtFmt 3
  | _ => wgtFmt 7

/-- Bytes that `n` elements of a format take, MX scales included (R79, R99). -/
def opBytes (f : OpFmt) (n : Nat) : Nat := n * f.bits / 8 + (if f.mx then n / 32 else 0)

/-- Operand modes of R109. -/
inductive CubeMode where
  | fp8 | double | quarter
  deriving DecidableEq, Repr

/-- Mode of an operand pair (R28, R109). -/
def cubeMode (a w : OpFmt) : CubeMode :=
  if a.bits = 16 || w.bits = 16 then .quarter
  else if a.bits = 4 && w.bits = 4 then .double
  else .fp8

/-! ## Quantisation (R104, R105) -/

/-- |v| > M · 2^k for finite v. -/
def vabove (v : Val) (m : Nat) (k : Int) : Bool :=
  match v with
  | .fin _ a e =>
    let lo := min e k
    decide (a * 2 ^ (e - lo).toNat > m * 2 ^ (k - lo).toNat)
  | .inf _ => true
  | .nan => false

/-- Largest finite magnitude of a format as significand and exponent. -/
def maxFinite (f : Fmt) : Nat × Int :=
  match decodeVal f (maxCode f) with
  | .fin _ m e => (m, e)
  | _ => (0, 0)

/-- One element: its code and whether it saturated (R104). -/
def quantElem (f : Fmt) (v : Val) : Nat × Bool :=
  let sat := vabove v (maxFinite f).1 (maxFinite f).2
  match v with
  | .fin n m e => (signed f n (min (roundMag f m e) (maxCode f)), sat)
  | .inf n => (signed f n (maxCode f), true)
  | .nan => (0, false)

/-- floor(log2) of the largest magnitude of a block, an infinity taken as 0x7F7F_FFFF (R105); none when it
is zero. -/
def blockExpo (ys : List Word) : Option Int :=
  ys.foldl (fun acc y =>
    let e : Option Int := if fisInf y then some 127 else vexpo (v32 y)
    match acc, e with
    | some a, some b => some (max a b)
    | some a, none => some a
    | none, b => b) none

/-- One MX block of 32: codes, scale byte, saturated elements (R105). -/
def quantBlock (f : OpFmt) (ys : List Word) : List Nat × Nat × Nat :=
  match blockExpo ys with
  | none => (ys.map fun _ => 0, 0, 0)
  | some a =>
    let xb := max (-127) (min 127 (a - f.emax))
    let qs := ys.map fun y => quantElem f.elem (vscale (v32 y) (-xb))
    (qs.map (·.1), (xb + 127).toNat, (qs.filter (·.2)).length)

/-- Quantise FP32 values into an activation format: codes, scale bytes, saturated elements. -/
def quantGo (f : OpFmt) : Nat → List Word → List Nat × List Nat × Nat
  | 0, _ => ([], [], 0)
  | n + 1, ys =>
    let b := quantBlock f (ys.take 32)
    let r := quantGo f n (ys.drop 32)
    (b.1 ++ r.1, b.2.1 :: r.2.1, b.2.2 + r.2.2)

/-- quant of R100 and R125. -/
def quant (f : OpFmt) (ys : List Word) : List Nat × List Nat × Nat :=
  if f.mx then quantGo f (ys.length / 32) ys
  else
    let qs := ys.map fun y => quantElem f.elem (v32 y)
    (qs.map (·.1), [], (qs.filter (·.2)).length)

/-! ## Normalisation (R100 to R102) -/

/-- Elements of a hidden row as it stands in host memory. -/
def rowElems (fmt h : Nat) (bs : List Byte) : List Val :=
  (upto h).map fun n => decodeVal (inFmt fmt) (numAt bs (n * inBytes fmt) (inBytes fmt))

/-- Whether a value is finite. -/
def vfinite : Val → Bool
  | .fin _ _ _ => true
  | _ => false

/-- Whether a value is a zero of either sign. -/
def vzero : Val → Bool
  | .fin _ m _ => m = 0
  | _ => false

/-- trunc64 of the scaled square, in units of 2^−64 (R100). -/
def scaledSquare (e : Int) : Val → Nat
  | .fin _ m k =>
    let s := 2 * (k - e) + 64
    if s ≥ 0 then m * m * 2 ^ s.toNat else m * m / 2 ^ (-s).toNat
  | _ => 0

/-- The scaling of r by 2^(−e) as an exponent adjustment: exact, but for one rounding below the FP32 normal range (R100);
above the FP32 range r keeps its exact value, so it is finite (R101, R103). -/
def rmsScale (r : Val) (e : Int) : Val :=
  let v := vscale r (-e)
  match vexpo v with
  | some k => if k < -126 then v32 (rd v) else v
  | none => v

/-- r of R100. -/
def rmsFactor (compat : Bool) (xs : List Val) (eps : Word) : Val :=
  let e : Int := (xs.filterMap vexpo).foldl max ((xs.filterMap vexpo).headD 0)
  let acc := xs.foldl (fun a x => a + scaledSquare e x) 0
  let ms := rd (.fin false (acc / xs.length) (-64))
  let es := rd (vscale (v32 eps) (-2 * e))
  rmsScale (v32 (rsqrtF compat (fadd ms es))) e

/-- One element of a normalised row: two products, left to right (R100); with r zero, as an infinite es makes it, a zero of
the sign of x (R101). -/
def normElem (r x : Val) (gain : Word) : Word :=
  match r, x with
  | .fin _ 0 _, .fin n _ _ => rd (.fin n 0 0)
  | _, _ => fmul (rd (vmul x r)) gain

/-- The normalised FP32 values of a row; none when it holds a NaN or an infinity (R102). -/
def normValues (compat rms : Bool) (eps : Word) (gain : List Word) (xs : List Val) : Option (List Word) :=
  if !xs.all vfinite then none
  else if xs.all vzero then some (xs.map fun _ => 0)
  else
    let r := if rms then rmsFactor compat xs eps else v32 fone
    some ((xs.zip gain).map fun p => normElem r p.1 p.2)

/-! ## Row statistics (R214, R215) -/

/-- Running sums of R214 over groups of 64 differences. -/
def statSums : Nat → List Word → Word → Word → Word × Word
  | 0, _, s1, s2 => (s1, s2)
  | n + 1, ds, s1, s2 =>
    let g := ds.take 64
    statSums n (ds.drop 64) (fadd s1 (tree 6 g)) (fadd s2 (tree 6 (g.map fun d => fmul d d)))

/-- Mean, variance, CLAMP and OVF of a row's FP32 values: whether they overflowed, and the row statistics. -/
def statValues (xs : List Word) : Word × Word × Bool × Bool :=
  let a := xs.headD 0
  let s := statSums (xs.length / 64) (xs.map fun x => fsub x a) 0 0
  let q1 := fdivNat s.1 xs.length
  let q2 := fdivNat s.2 xs.length
  let mean := fadd a q1
  let sq := fmul q1 q1
  let var := fsub q2 sq
  let ovf := !(ffinite s.1 && ffinite s.2 && ffinite mean && ffinite sq && ffinite var)
  if ovf then (mean, if fisNan var then 0x7F800000 else var, false, true)
  else if var = 0x80000000 then (mean, 0, false, false)
  else if bit var 31 then (mean, 0, true, false)
  else (mean, var, false, false)

/-! ## Weights (R106, R107) -/

/-- Bytes of a panel (R106). -/
def panelBytes (f : OpFmt) : Nat := 64 * opBytes f 64

/-- Codes of one column's 64 elements in a panel, in hidden order (R107). -/
def panelCodes (f : OpFmt) (panel : List Byte) (j : Nat) : List Nat :=
  let n := numAt panel (j * (8 * f.bits)) (8 * f.bits)
  (upto 64).map fun k => n / 2 ^ (k * f.bits) % 2 ^ f.bits

/-- Scale byte of column `j`, block `b` of a panel (R107). -/
def panelScale (f : OpFmt) (panel : List Byte) (j b : Nat) : Nat := numAt panel (512 * f.bits + 2 * j + b) 1

/-- One operand vector in hidden order with an exponent per block of 32. -/
structure Operand where
  vals : List Val
  exps : List Int
  deriving DecidableEq, Repr

/-- An element that a scale byte of 0xFF makes NaN (R111). -/
def scaledNan (s : Nat) (v : Val) : Val := if s = 255 then .nan else v

/-- Column `j` of a column group's panels: `units` panels in unit order (R106, R110). -/
def columnOf (f : OpFmt) (group : List Byte) (units j : Nat) : Operand :=
  let P := panelBytes f
  let us := (upto units).map fun u => slice group (u * P) P
  { vals := us.flatMap fun p =>
      let cs := (panelCodes f p j).map (decodeVal f.elem)
      if f.mx then
        (cs.take 32).map (scaledNan (panelScale f p j 0)) ++ (cs.drop 32).map (scaledNan (panelScale f p j 1))
      else cs
    exps := us.flatMap fun p =>
      if f.mx then [(panelScale f p j 0 : Int) - 127, (panelScale f p j 1 : Int) - 127] else [0, 0] }

/-- An activation row as an operand (R110). -/
def actOperand (f : OpFmt) (codes scales : List Nat) : Operand :=
  { vals := codes.map (decodeVal f.elem)
    exps := if f.mx then scales.map fun (s : Nat) => (s : Int) - 127
            else (upto (codes.length / 32)).map fun _ => 0 }

/-- X(x_q): the FP32 values of an activation row (R125). -/
def actValues (f : OpFmt) (codes scales : List Nat) : List Word :=
  if f.mx then
    (codes.zip (scales.flatMap fun s => List.replicate 32 s)).map fun p =>
      rd (vscale (decodeVal f.elem p.1) ((p.2 : Int) - 127))
  else codes.map fun c => rd (decodeVal f.elem c)

/-! ## Accumulation (R110, R111) -/

/-- First level of a tree: each exact pair of products rounded once. -/
def pairProducts : List Val → List Val → List Word
  | a :: b :: as, x :: y :: xs => rd (vadd (vmul a x) (vmul b y)) :: pairProducts as xs
  | _, _ => []

/-- s[p]: a cube row's tree over 2^(k+1) products. -/
def cubeSum (k : Nat) (as ws : List Val) : Word := tree k (pairProducts as ws)

/-- The eight cube-row sums of an item whose cube rows take `2^(k+1)` elements each. -/
def cubeSums (k : Nat) : Nat → List Val → List Val → List Word
  | 0, _, _ => []
  | n + 1, as, ws =>
    let w := 2 ^ (k + 1)
    cubeSum k (as.take w) (ws.take w) :: cubeSums k n (as.drop w) (ws.drop w)

/-- A block sum scaled by its pair of block exponents. -/
def scaleSum (x : Word) (e : Int) : Word := rd (vscale (v32 x) e)

/-- Sum of one item (R110): `blocks` MX blocks, `exps` their exponent sums. -/
def itemSum (dbl : Bool) (as ws : List Val) (exps : List Int) : Word :=
  let g (i : Nat) := exps.getD i 0
  if dbl then
    match cubeSums 3 8 as ws with
    | [s0, s1, s2, s3, s4, s5, s6, s7] =>
      fadd (fadd (scaleSum (fadd s0 s1) (g 0)) (scaleSum (fadd s2 s3) (g 1)))
           (fadd (scaleSum (fadd s4 s5) (g 2)) (scaleSum (fadd s6 s7) (g 3)))
    | _ => 0
  else
    match cubeSums 2 8 as ws with
    | [s0, s1, s2, s3, s4, s5, s6, s7] =>
      fadd (scaleSum (fadd (fadd s0 s1) (fadd s2 s3)) (g 0))
           (scaleSum (fadd (fadd s4 s5) (fadd s6 s7)) (g 1))
    | _ => 0

/-- Accumulate items in unit order. -/
def accumulate (dbl : Bool) : Nat → List Val → List Val → List Int → Word → Word
  | 0, _, _, _, acc => acc
  | n + 1, as, ws, es, acc =>
    let w := if dbl then 128 else 64
    let b := if dbl then 4 else 2
    accumulate dbl n (as.drop w) (ws.drop w) (es.drop b)
      (fadd acc (itemSum dbl (as.take w) (ws.take w) (es.take b)))

/-- One score (R110): in double mode a missing last panel contributes +0 products (R109). A NaN leaves as
0x7FC0_0000 (R111), the canonical NaN every FP32 operation gives. -/
def scoreOf (mode : CubeMode) (a w : Operand) : Word :=
  let es := List.zipWith (· + ·) a.exps w.exps
  match mode with
  | .double =>
    let n := (a.vals.length + 127) / 128
    let pad := n * 128 - a.vals.length
    let z := List.replicate pad (Val.fin false 0 0)
    accumulate true n (a.vals ++ z) (w.vals ++ z) (es ++ List.replicate (pad / 32) 0) 0
  | _ => accumulate false (a.vals.length / 64) a.vals w.vals es 0

/-- Scores of a row against every column of a run of column groups. -/
def projectRow (mode : CubeMode) (a : Operand) (cols : List Operand) : List Word :=
  cols.map fun c => scoreOf mode a c

/-- The columns of `n` consecutive column groups stored one after another. -/
def groupCols (f : OpFmt) (bytes : List Byte) (units n : Nat) : List Operand :=
  (upto n).flatMap fun q =>
    let g := slice bytes (q * units * panelBytes f) (units * panelBytes f)
    (upto 64).map fun j => columnOf f g units j

/-! ## Adapters (R123, R125) -/

/-- Gate function ACT (R125). -/
def gateFn (compat : Bool) (act : Nat) (g : Word) : Word :=
  match act with
  | 0 => fmul g (rcpF compat (fadd fone (exp2F compat (fneg (fmul g l2e)))))
  | 1 => if fisNan g then g else if fkey g > 0 then g else 0
  | _ => g

/-- Weight bytes of an adapter: W = 3 × r × H × w (R123). -/
def adpBytes (f : OpFmt) (r h : Nat) : Nat := 3 * r * opBytes f h

/-- A row through an adapter (R125): new codes and scales, none when a value before quant is NaN; and the elements that
its quantisations saturated (R104). -/
def adaptRow (compat : Bool) (af wf : OpFmt) (r h act : Nat) (alpha : Word) (weights : List Byte)
    (codes scales : List Nat) : Option (List Nat × List Nat) × Nat :=
  let mode := cubeMode af wf
  let mode := if mode = .double then .fp8 else mode
  let down := groupCols wf weights (h / 64) (2 * r / 64)
  let up := groupCols wf (weights.drop (2 * r / 64 * (h / 64) * panelBytes wf)) (r / 64) (h / 64)
  let z := projectRow mode (actOperand af codes scales) down
  let hh := List.zipWith (fun g v => fmul (gateFn compat act g) v) (z.take r) (z.drop r)
  if hh.any fisNan then (none, 0)
  else
    let hq := quant af hh
    let delta := projectRow mode (actOperand af hq.1 hq.2.1) up
    let y := List.zipWith (fun x d => fadd x (fmul alpha d)) (actValues af codes scales) delta
    if y.any fisNan then (none, hq.2.2)
    else
      let q := quant af y
      (some (q.1, q.2.1), q.2.2 + hq.2.2)

end Sys2Proof.Machine
end

