-- ==== Sys2Proof/Machine/Crypto.lean ====
section
/-! DEFINITION. The two cryptographic functions of the sealed meter: SHA-256 (FIPS 180-4, R426) and
AES-128-CMAC (NIST SP 800-38B, R431). -/

namespace Sys2Proof.Machine

/-! SHA-256. -/

/-- The round constants. -/
def shaK : List Word :=
  [0x428A2F98#32, 0x71374491#32, 0xB5C0FBCF#32, 0xE9B5DBA5#32] ++
  [0x3956C25B#32, 0x59F111F1#32, 0x923F82A4#32, 0xAB1C5ED5#32] ++
  [0xD807AA98#32, 0x12835B01#32, 0x243185BE#32, 0x550C7DC3#32] ++
  [0x72BE5D74#32, 0x80DEB1FE#32, 0x9BDC06A7#32, 0xC19BF174#32] ++
  [0xE49B69C1#32, 0xEFBE4786#32, 0x0FC19DC6#32, 0x240CA1CC#32] ++
  [0x2DE92C6F#32, 0x4A7484AA#32, 0x5CB0A9DC#32, 0x76F988DA#32] ++
  [0x983E5152#32, 0xA831C66D#32, 0xB00327C8#32, 0xBF597FC7#32] ++
  [0xC6E00BF3#32, 0xD5A79147#32, 0x06CA6351#32, 0x14292967#32] ++
  [0x27B70A85#32, 0x2E1B2138#32, 0x4D2C6DFC#32, 0x53380D13#32] ++
  [0x650A7354#32, 0x766A0ABB#32, 0x81C2C92E#32, 0x92722C85#32] ++
  [0xA2BFE8A1#32, 0xA81A664B#32, 0xC24B8B70#32, 0xC76C51A3#32] ++
  [0xD192E819#32, 0xD6990624#32, 0xF40E3585#32, 0x106AA070#32] ++
  [0x19A4C116#32, 0x1E376C08#32, 0x2748774C#32, 0x34B0BCB5#32] ++
  [0x391C0CB3#32, 0x4ED8AA4A#32, 0x5B9CCA4F#32, 0x682E6FF3#32] ++
  [0x748F82EE#32, 0x78A5636F#32, 0x84C87814#32, 0x8CC70208#32] ++
  [0x90BEFFFA#32, 0xA4506CEB#32, 0xBEF9A3F7#32, 0xC67178F2#32]

/-- The initial hash value. -/
def shaH0 : List Word :=
  [0x6A09E667#32, 0xBB67AE85#32, 0x3C6EF372#32, 0xA54FF53A#32] ++
  [0x510E527F#32, 0x9B05688C#32, 0x1F83D9AB#32, 0x5BE0CD19#32]

/-- Right rotation of a word. -/
def rotr (x : Word) (n : Nat) : Word := (x >>> n) ||| (x <<< (32 - n))

/-- The big-endian word of the first four bytes. -/
def beWord (bs : List Byte) : Word :=
  w32 ((bs.take 4).foldl (fun a b => a * 256 + b.toNat) 0)

/-- The `n` big-endian words of a block. -/
def beWords : Nat → List Byte → List Word
  | 0, _ => []
  | n + 1, bs => beWord bs :: beWords n (bs.drop 4)

/-- The message schedule: `last` holds the latest sixteen words, newest first. -/
def shaSched : Nat → List Word → List Word
  | 0, _ => []
  | n + 1, last =>
    let g (i : Nat) := last.getD i 0
    let s0 := rotr (g 14) 7 ^^^ rotr (g 14) 18 ^^^ (g 14 >>> 3)
    let s1 := rotr (g 1) 17 ^^^ rotr (g 1) 19 ^^^ (g 1 >>> 10)
    let w := s1 + g 6 + s0 + g 15
    w :: shaSched n (w :: last.take 15)

/-- One round on the eight working words. -/
def shaRound (st : List Word) (kw : Word × Word) : List Word :=
  match st with
  | [a, b, c, d, e, f, g, h] =>
    let s1 := rotr e 6 ^^^ rotr e 11 ^^^ rotr e 25
    let t1 := h + s1 + ((e &&& f) ^^^ ((~~~e) &&& g)) + kw.1 + kw.2
    let s0 := rotr a 2 ^^^ rotr a 13 ^^^ rotr a 22
    let t2 := s0 + ((a &&& b) ^^^ (a &&& c) ^^^ (b &&& c))
    [t1 + t2, a, b, c, d + t1, e, f, g]
  | l => l

/-- One 64-byte block into the hash. -/
def shaBlock (h : List Word) (bs : List Byte) : List Word :=
  let w := beWords 16 bs
  let ws := w ++ shaSched 48 w.reverse
  List.zipWith (· + ·) h ((List.zip shaK ws).foldl shaRound h)

/-- `n` blocks. -/
def shaBlocks : Nat → List Byte → List Word → List Word
  | 0, _, h => h
  | n + 1, bs, h => shaBlocks n (bs.drop 64) (shaBlock h (bs.take 64))

/-- Big-endian bytes of a number. -/
def beBytes (n v : Nat) : List Byte := (leBytes n v).reverse

/-- SHA-256 of a byte string. -/
def sha256 (bs : List Byte) : List Byte :=
  let pad := (119 - bs.length % 64) % 64
  let m := bs ++ [0x80] ++ zeros pad ++ beBytes 8 (8 * bs.length)
  (shaBlocks (m.length / 64) m shaH0).flatMap fun w => beBytes 4 w.toNat

/-! AES-128 (FIPS 197) and CMAC. -/

/-- Multiplication by x in GF(2⁸). -/
def xtime (a : Byte) : Byte := if a.getLsbD 7 then (a <<< 1) ^^^ 0x1B else a <<< 1

/-- Product in GF(2⁸), over `n` bits of `b`. -/
def gmul : Nat → Byte → Byte → Byte
  | 0, _, _ => 0
  | n + 1, a, b => (if b.getLsbD 0 then a else 0) ^^^ gmul n (xtime a) (b >>> 1)

/-- a^254, the inverse (0 for 0). -/
def ginv (a : Byte) : Byte :=
  let m := gmul 8
  let a2 := m a a
  let a4 := m a2 a2
  let a8 := m a4 a4
  let a16 := m a8 a8
  let a32 := m a16 a16
  let a64 := m a32 a32
  let a128 := m a64 a64
  m a128 (m a64 (m a32 (m a16 (m a8 (m a4 a2)))))

/-- Left rotation of a byte. -/
def rotlB (a : Byte) (n : Nat) : Byte := (a <<< n) ||| (a >>> (8 - n))

/-- The S-box. -/
def sbox (a : Byte) : Byte :=
  let b := ginv a
  b ^^^ rotlB b 1 ^^^ rotlB b 2 ^^^ rotlB b 3 ^^^ rotlB b 4 ^^^ 0x63

/-- Bytewise exclusive or. -/
def xorB (a b : List Byte) : List Byte := List.zipWith (· ^^^ ·) a b

/-- The next round key. -/
def nextKey (k : List Byte) (rcon : Byte) : List Byte :=
  let g (i : Nat) := k.getD i 0
  let t := [sbox (g 13) ^^^ rcon, sbox (g 14), sbox (g 15), sbox (g 12)]
  let w0 := xorB (k.take 4) t
  let w1 := xorB ((k.drop 4).take 4) w0
  let w2 := xorB ((k.drop 8).take 4) w1
  w0 ++ w1 ++ w2 ++ xorB (k.drop 12) w2

/-- The `n` round keys after `k`. -/
def keySched : Nat → List Byte → Byte → List (List Byte)
  | 0, _, _ => []
  | n + 1, k, rc => let k' := nextKey k rc; k' :: keySched n k' (xtime rc)

/-- SubBytes and ShiftRows. -/
def subShift (s : List Byte) : List Byte :=
  (upto 16).map fun i => sbox (s.getD ((i + 4 * (i % 4)) % 16) 0)

/-- One column of MixColumns. -/
def mixCol (c : List Byte) : List Byte :=
  let g (i : Nat) := c.getD (i % 4) 0
  (upto 4).map fun i => xtime (g i) ^^^ (xtime (g (i + 1)) ^^^ g (i + 1)) ^^^ g (i + 2) ^^^ g (i + 3)

/-- MixColumns. -/
def mixColumns (s : List Byte) : List Byte :=
  (upto 4).flatMap fun i => mixCol ((s.drop (4 * i)).take 4)

/-- The rounds after the first key addition; the last has no MixColumns. -/
def aesRounds : List (List Byte) → List Byte → List Byte
  | [], s => s
  | [k], s => xorB (subShift s) k
  | k :: ks, s => aesRounds ks (xorB (mixColumns (subShift s)) k)

/-- AES-128 of one block. -/
def aes (key blk : List Byte) : List Byte := aesRounds (keySched 10 key 0x01) (xorB blk key)

/-- Doubling of SP 800-38B on a big-endian block. -/
def cmacDbl (b : List Byte) : List Byte :=
  let v := leNat b.reverse
  let d := (2 * v) % 2 ^ 128
  beBytes 16 (if v ≥ 2 ^ 127 then d ^^^ 0x87 else d)

/-- The CBC chain over `n` full blocks. -/
def cbcChain (key : List Byte) : Nat → List Byte → List Byte → List Byte
  | 0, _, c => c
  | n + 1, bs, c => cbcChain key n (bs.drop 16) (aes key (xorB c (bs.take 16)))

/-- AES-128-CMAC of a byte string (R431). -/
def cmac (key bs : List Byte) : List Byte :=
  let k1 := cmacDbl (aes key (zeros 16))
  let nb := max 1 (cdiv bs.length 16)
  let c := cbcChain key (nb - 1) bs (zeros 16)
  let lastB := bs.drop (16 * (nb - 1))
  let m := if lastB.length = 16 then xorB lastB k1
           else xorB (lastB ++ [0x80] ++ zeros (15 - lastB.length)) (cmacDbl k1)
  aes key (xorB c m)

end Sys2Proof.Machine
end

