-- ==== Sys2Proof/Machine/State.lean ====
section
/-! DEFINITION. The state of the Ignar-4 as plain data: the block with its register side, the meter island,
the commands waiting, and the state right after power-up and cold reset. -/

namespace Sys2Proof.Machine

/-! ## Outcomes -/

/-- Why the machine stops. -/
inductive Fault where
  /-- A mission command while `test_mode` is high: R60 leaves the block's behaviour undefined. Safe. -/
  | testModeHigh
  deriving DecidableEq, Repr

/-- Why a command has no meaning. -/
inductive Refusal where
  /-- Raised by the dispatch arm of a command that has no meaning yet. Safe. -/
  | notModelled (mnemonic : String)
  deriving DecidableEq, Repr

/-! ## Grades, modes and small enumerations -/

/-- X4 or X2 (R5, R6). -/
inductive Grade where
  | x4 | x2
  deriving DecidableEq, Repr

/-- Clock source of control and register logic (R413). -/
inductive ClkSrc where
  | start | dawn | pll | hold
  deriving DecidableEq, Repr

/-- Power state of R398, with OFF_READY of R401. -/
inductive PState where
  | run | throttle | drain | retain | offReady
  deriving DecidableEq, Repr

/-- GATE.STATE of R394. -/
inductive GateState where
  | gated | running | gatePending | wakePending
  deriving DecidableEq, Repr

/-- sk_state of R54. -/
inductive SkState where
  | open | loading | sealed | bad
  deriving DecidableEq, Repr

/-- Tenant states of R281. -/
inductive TState where
  | dusk | active | draining
  deriving DecidableEq, Repr

/-- Entry states of R252. -/
inductive EState where
  | free | ready | inflight | blocked | done | fault | cancelling
  | spReady | spBlocked | paused | moving
  deriving DecidableEq, Repr

/-- Step outcomes of SCH.LAST_STEP (register map, SCH). -/
inductive Outcm where
  | none | committed | empty | skipped | guardTimeout | groupAbandoned
  deriving DecidableEq, Repr

/-! ## Memory traffic (R40 to R44, R360 to R375) -/

/-- Which rights set an access is checked against (R363). -/
inductive Rights where
  | system
  | tenant (n : Nat)
  | unchecked
  deriving DecidableEq, Repr

/-- The path that issued a transfer and takes its data or its OKAY (R363). -/
inductive Purpose where
  /-- Guard object (R71). -/
  | guard (ctx : Nat)
  /-- Hidden row of a pass (R99). -/
  | row (ctx r : Nat)
  /-- Weight panel of column group `q`, unit `u`, of column block `cb` of tile column `t` for row group `g` of the chunk:
  its first read, or one for parity (R106, R108, R117). -/
  | panel (ctx t g cb q u : Nat)
  /-- All weights of an adapter (R126). -/
  | adapter (ctx tenant slot : Nat)
  /-- Panel `n` of an adapter, in address order, read again for parity (R117, R123). -/
  | adapterPanel (ctx tenant slot n : Nat)
  /-- Draft block of an entry (R221). -/
  | draft (ctx entry : Nat)
  /-- Prompt-chunk tokens of an entry (R266). -/
  | chunk (ctx entry : Nat)
  /-- Token record or position code of a commit (R85 point 1). -/
  | record (ctx entry : Nat)
  /-- State record of a commit (R85 point 2). -/
  | stateRec (ctx entry : Nat)
  /-- Completion counter of a commit, with its value (R85 point 3, R294). -/
  | counter (ctx entry index : Nat) (value : Nat)
  /-- Page list words (R262). -/
  | pageList (entry : Nat)
  /-- A write of a request that its tenant's fault has stopped since (R88). -/
  | orphan (entry : Nat)
  /-- Row list of a batch descriptor (R265). -/
  | descRows (seq : Nat)
  /-- Header of a batch descriptor (R265). -/
  | descHead (seq : Nat)
  /-- Step number written at launch (R265). -/
  | descLaunch
  /-- Done counter (R466). -/
  | doneCounter (ctx : Nat)
  /-- History list or image of an admission or import (R164, R209). -/
  | hist (entry : Nat)
  /-- State record read by IMPORT (R275). -/
  | importRec (entry : Nat)
  /-- Entry image and history image written by EXPORT (R274). -/
  | exportImg (entry : Nat)
  /-- Spill slot of a directory entry, written from a resident entry by PAUSE or an eviction (R270, R272). -/
  | spill (entry dir : Nat)
  /-- Spill slot read by a fill (R272). -/
  | fill (entry dir : Nat)
  /-- Spill slot read to end a spilled entry with this status (R269, R270). -/
  | spillEnd (dir status : Nat)
  /-- Record written outside a step commit, then this counter (R475, R269, R270). -/
  | outRecord (tenant index : Nat) (value : Nat)
  /-- Counter of such a record (R294). -/
  | outCounter (index : Nat) (value : Nat)
  /-- Load engine (R442). -/
  | load
  /-- Page-table entry of a walk (R368). -/
  | walk
  deriving DecidableEq, Repr

/-- A block-level transfer: the accesses it is cut into carry its beats (R360). -/
structure Xfer where
  id      : Nat
  write   : Bool
  /-- First byte, as the owner sees it. -/
  addr    : Nat
  len     : Nat
  /-- Bytes to write; empty for a read. -/
  data    : List Byte
  kind    : Nat
  /-- Tenant sideband: an index, or none for 0x400. -/
  tenant  : Option Nat
  rights  : Rights
  /-- Pass context whose captured registers translate it; none: those in force. -/
  ctx     : Option Nat
  purpose : Purpose
  /-- Beats already issued once and accesses to issue again, as first beat, beats and tries (R374). -/
  issued  : Nat
  redo    : List (Nat × Nat × Nat)
  /-- Beats whose access has ended, and beats received, by index from the first beat. -/
  ended   : Nat
  got     : Table (BitVec 512)
  /-- A final failure or refusal has been met. -/
  failed  : Bool
  deriving DecidableEq, Repr

/-- An access outstanding on a port (R40). -/
structure Access where
  port  : Nat
  tag   : Nat
  write : Bool
  /-- Physical address of the first beat. -/
  phys  : Nat
  beats : Nat
  xfer  : Nat
  /-- Index of the first beat within the transfer. -/
  off   : Nat
  tries : Nat
  recvd : List (BitVec 512)
  /-- First beat with a parity mismatch, and first beat of a transfer with an error response (R374). -/
  badPar : Option Nat
  badErr : Option Nat
  deriving DecidableEq, Repr

/-- A walk in progress for a transfer (R368). -/
structure Walk where
  xfer  : Nat
  /-- The read of the present level's entry, and that entry's place in its 64-byte beat. -/
  rdId  : Nat
  level : Nat
  table : Nat
  /-- The address the access asked for. -/
  addr  : Nat
  rd    : Bool
  wr    : Bool
  deriving DecidableEq, Repr

/-- A cached translation (R368): the page of the tenant's address at `shift` bits, under the root that its walk began at. -/
structure CachedXlt where
  tenant : Nat
  root   : Nat
  vpage  : Nat
  shift  : Nat
  phys   : Nat
  rd     : Bool
  wr     : Bool
  deriving DecidableEq, Repr

/-- A translation fault report (R369). -/
structure XltReport where
  tenant : Nat
  port   : Nat
  kind   : Nat
  write  : Bool
  cause  : Nat
  addr   : Nat
  deriving DecidableEq, Repr

/-- Memory ports and translation unit. -/
structure MemSide where
  xfers   : List Xfer
  access  : List Access
  nextId  : Nat
  walks   : List Walk
  cache   : List CachedXlt
  /-- Fault queue, oldest first, and the reports that found it full (R372). -/
  fqueue  : List XltReport
  fqWait  : List XltReport
  /-- Tenants with a pending translation fault (R369). -/
  xltHeld : List Nat
  invalBusy : Bool
  /-- Transfers that have ended and are still to be handed to the path that issued them. -/
  done    : List Xfer
  deriving DecidableEq, Repr

/-! ## Requests (R250, R252, R161, R208) -/

/-- Contents of a history slot: the sequential layout of R161, or the pass state of R208. -/
inductive Hist where
  | seq (w fill head total : Nat) (ring : Table Nat) (list : List (Nat × Nat))
  | refine (p t i u : Nat) (done : List Nat)
  deriving DecidableEq, Repr

/-- Depth governor state (R218). -/
structure Gov where
  depth : Nat
  full  : Nat
  zero  : Nat
  susp  : Bool
  wait  : Nat
  deriving DecidableEq, Repr

/-- Mask state of an entry (R174). -/
structure MaskSt where
  state : Nat
  xw : Nat
  yh : Nat
  t  : Nat
  y  : Nat
  x  : Nat
  deriving DecidableEq, Repr

/-- A posted prompt chunk (R266). -/
structure Chunk where
  n    : Nat
  addr : Nat
  pos0 : Nat
  deriving DecidableEq, Repr

/-- The block region of an entry (R250) and what the block keeps beside it. -/
structure Entry where
  state    : EState
  ackSeq   : Nat
  efault   : Nat
  pin      : Nat
  nextSlot : Nat
  lateSeen : Bool
  len      : Nat
  new      : Nat
  seq      : Nat
  gov      : Gov
  tail     : List Nat
  spillIdx : Nat
  blockTime : Nat
  lastStep : Nat
  tenant   : Nat
  refine   : Bool
  reqId    : Nat
  discarded : Nat
  rejected : Nat
  mask     : MaskSt
  /-- Page numbers held, page 0 first; PAGES is their number (R262). -/
  pages    : List Nat
  hist     : Hist
  /-- REF_P, REF_T and DEPTH_INIT as admitted (R251). -/
  refP     : Nat
  refT     : Nat
  depthInit : Nat
  /-- Host region as the last ADMIT or IMPORT read it (R251, R253). -/
  adm      : List Word
  /-- Completion counter it named at its ADMIT or IMPORT; the binding lasts over a spill and a fill (R293; DEDUCED, log
  entry 123). -/
  counter  : Nat
  chunk    : Option Chunk
  /-- CANCELLING: whether the CANCELLED record is written, and tokens advanced since the cancel (R268). -/
  cancelDone : Bool
  since    : Nat
  /-- An implicit CANCEL is held (R282), or the deadline policy asks for one (R261). -/
  autoCancel : Bool
  /-- State taken at the next boundary by a finished transfer, with the EFAULT it carries (R255). -/
  arrive   : Option (EState × Nat)
  /-- The natural stop overtook the pending command (R256). -/
  overtaken : Bool
  deriving DecidableEq, Repr

/-- A spill-directory entry (R271). -/
structure DirEntry where
  state  : EState
  ackSeq : Nat
  tenant : Nat
  reqId  : Nat
  word3  : Word
  /-- Completion counter bound to it, pages it holds (R293, R264). -/
  counter : Nat
  pages  : List Nat
  /-- State taken at the boundary after its transfer has ended, and whether it has (R255). -/
  arrive : Option EState
  ended  : Bool
  /-- PAUSED: the period it expires in, if any (R270). -/
  expiry : Option Nat
  /-- An implicit CANCEL is held for it (R282). -/
  cancel : Bool
  /-- REF_P, REF_T and DEPTH_INIT of the spilled request as admitted (R251). -/
  copies : Nat × Nat × Nat
  deriving DecidableEq, Repr

/-- Tenant state outside its registers (R278 to R303). -/
structure Tenant where
  state   : TState
  balance : Int
  grant   : Int
  fair    : Nat
  faultCode : Nat
  faultAddr : Nat
  faultMore : Nat
  /-- A FAULT_CLEAR awaits its boundary; first fault since it, and the number of faults since (R299). -/
  clearPend : Bool
  sinceCode : Nat
  sinceAddr : Nat
  sinceN  : Nat
  entryFaults : Nat
  resetPend : Bool
  /-- The first scan in DRAINING has applied the implicit cancels (R282). -/
  cancelsDone : Bool
  deriving DecidableEq, Repr

/-! ## Batches and passes -/

/-- A row of a batch (R265); `entry` is none for a padding row. -/
structure BRow where
  entry  : Option Nat
  pos    : Nat
  slot   : Nat
  /-- 0 generation, 1 prompt chunk, 2 refine, 3 padding. -/
  kind   : Nat
  uncond : Bool
  deriving DecidableEq, Repr

/-- A request of a batch as the formation fixed it (R154, R182, R218, R222). -/
structure BReq where
  entry  : Nat
  tenant : Nat
  reqId  : Nat
  /-- Host region words as they stood at the forming boundary. -/
  host   : List Word
  dstep  : Nat
  kind   : Nat
  /-- State before formation: READY or CANCELLING (R252). -/
  prev   : EState
  rows   : Nat
  chunk  : Option Chunk
  refP   : Nat
  refT   : Nat
  /-- Records are LATE in this step (R260). -/
  late   : Bool
  deriving DecidableEq, Repr

/-- A batch (R76). -/
structure Batch where
  seq    : Nat
  refine : Bool
  reqs   : List BReq
  rows   : List BRow
  /-- Predicted energy E, raw energy, rows per class, and the account period charged (R404, R405). -/
  energy : Nat
  eraw   : Nat
  classN : List Nat
  period : Nat
  /-- Penalty epoch the formation checked against (R155). -/
  penEpoch : Nat
  deriving DecidableEq, Repr

/-- Decision of a row (R201). -/
structure Dec where
  gv   : Nat
  x    : Word
  l    : Word
  cut  : Nat
  z    : Word
  overflow : Bool
  /-- The cut-off set in rank order: score, global index. -/
  set  : List (Word × Nat)
  deriving DecidableEq, Repr

/-- Row statistics (R214): mean, variance, CLAMP and OVF. -/
structure Stats where
  mean : Word
  var  : Word
  clamp : Bool
  ovf  : Bool
  deriving DecidableEq, Repr

/-- Select state of a row (R186 to R189) as the candidate store or the working copy holds it. -/
structure Sel where
  /-- Heap in rank order: score, local column. -/
  heap : List (Word × Nat)
  nfin : Nat
  m    : Word
  s    : Word
  /-- Free-sampling maximum y, local column, score (R198); for a slot below DS the residual stream (R223). -/
  best : Option (Word × Nat × Word)
  /-- Every finite final score with its local column, ascending: what R188 and R223 capture from, and the source of
  the rescan windows of R204. -/
  fin  : List (Nat × Word)
  deriving DecidableEq, Repr

/-- A pass row: activation, removal, statistics, select state. -/
structure PRow where
  fetched : Option (List Byte)
  ready   : Bool
  /-- Record status of the cause the row was removed for; 0 = not removed (R102, R243). -/
  removed : Nat
  /-- Activation codes and E8M0 scale bytes (R99, R105). -/
  act     : List Nat
  scales  : List Nat
  stats   : Option Stats
  adapted : Bool
  sel     : Sel
  /-- The row's window of the rescan round in progress, in rank order: score, local column (R204). -/
  win     : List (Word × Nat)
  dec     : Option Dec
  deriving DecidableEq, Repr

/-- Class word content of R319. -/
structure ClassWord where
  gv : Nat
  cls : Option Nat
  committed : Bool
  deriving DecidableEq, Repr

/-- A token of a run (R227): global index, origin 0 sample 1 draft 2 residual, slot. -/
structure RunTok where
  gv     : Nat
  origin : Nat
  slot   : Nat
  deriving DecidableEq, Repr

/-- A draft slot (R220). -/
structure Draft where
  token : Nat
  list  : List (Nat × Word)
  deriving DecidableEq, Repr

/-- Commit stage of a request (R85). -/
inductive CStage where
  /-- Not begun. -/
  | idle
  /-- Records issued, waiting for their OKAYs (point 1). -/
  | records
  /-- State record issued, waiting for its OKAY (point 2). -/
  | stateRec
  /-- The state record has OKAY and CONFIRM is sent; the rest of point 3 follows (R420). -/
  | landed
  /-- Committed; its counter write is outstanding or done (point 3). -/
  | committed
  /-- A step after the CANCELLED commit: nothing written (R268). -/
  | silent
  /-- Stopped by its tenant's fault (R88). -/
  | stopped
  deriving DecidableEq, Repr

/-- What a commit of a request will do, built from its decided rows (R227, R245, R246, R268). -/
structure Plan where
  /-- Records in order, without SEQ: 32-byte strings (R241). -/
  records : List (List Byte)
  /-- Position code bytes; empty when none is written (R247). -/
  code    : List Byte
  /-- Committed tokens with their class words. -/
  toks    : List ClassWord
  /-- Tokens appended to history and automaton (R163). -/
  append  : List ClassWord
  runLen  : Nat
  accepted : Nat
  ds      : Nat
  built   : Bool
  /-- Status of the last record; natural stop; entry fault taken at commit (0 = none). -/
  status  : Nat
  stop    : Bool
  efault  : Nat
  residual : Bool
  scored  : Nat
  /-- Positions committed by a refine iteration. -/
  positions : List Nat
  gov     : Gov
  /-- A peer took it from a COMMIT (R322). -/
  remote  : Bool
  deriving DecidableEq, Repr

/-- Per-request state of a pass. -/
structure PReq where
  entry  : Nat
  /-- Draft block: none until read; its slots when good (R221). -/
  drafts : Option (List Draft)
  /-- Prompt-chunk tokens, PCHUNK_N + 1 of them (R266). -/
  toks   : List Nat
  dataIn : Bool
  stage  : CStage
  plan   : Option Plan
  /-- INTENT sent and not yet confirmed (R420). -/
  intent : Bool
  counterOk : Bool
  /-- Records of the commit with SEQ, for the digest (R357). -/
  sent   : List (List Byte)
  deriving DecidableEq, Repr

/-- Where a pass stands. -/
inductive Phase where
  /-- T_launch (R70). -/
  | launching
  /-- Guard read outstanding or between polls (R71, R72). -/
  | guard
  /-- Rows, drafts and adapters of the current chunk (R81). -/
  | prologue
  /-- Tiles of the current chunk (R78). -/
  | tiles
  /-- After the last tile, before the decision (R200); in a group, the exchange (R324). -/
  | decide
  /-- Per-request commit (R85). -/
  | commit
  /-- Done counter outstanding (R85 point 4). -/
  | doneWrite
  /-- Done counter OKAY; waiting for the end of R94. -/
  | ending
  deriving DecidableEq, Repr

/-- A delivery block in a result-buffer half (R113): column block and 64 rows of scores. -/
structure ResultHalf where
  cb     : Nat
  scores : List (List Word)
  deriving DecidableEq, Repr

/-- Weight bytes of a column block present in the weight stage (R108). -/
structure WeightBlk where
  t  : Nat
  g  : Nat
  cb : Nat
  bytes : List Byte
  /-- Panels marked absent for parity (R117). -/
  absent : List (Nat × Nat)
  deriving DecidableEq, Repr

/-- A row record of a PART or WINDOW message (R319). -/
structure PartRow where
  m : Word
  s : Word
  nfin : Nat
  flags : Nat
  tscore : Word
  tword : Word
  bestY : Word
  bestWord : Word
  bestX : Word
  ownWord : Word
  list : List (Word × Word)
  dlist : List Word
  residY : Word
  residWord : Word
  deriving DecidableEq, Repr

/-- Exchange state of a sharded step (R324 to R331). -/
structure Exch where
  /-- Complete PART messages taken: shard, its VOCAB, its rows. -/
  parts  : List (Nat × Nat × List PartRow)
  /-- Peers still to be pulled, the one being waited for first. -/
  toPull : List Nat
  pulling : Bool
  /-- NAKs sent for the message now expected, and whether the ANY NAK was sent (R327, R330). -/
  naks   : Nat
  anyNak : Bool
  /-- Rescan round in progress, 0 = the main exchange, and its rows: decided-row index, boundary score and class
  word, thr (R323). -/
  round  : Nat
  rescan : List (Nat × Word × Word × Word)
  /-- WINDOW messages of the round by shard, and the candidates already walked per row (R205). -/
  windows : List (Nat × List (Nat × List (Word × Word)))
  walked : List (Nat × List (Word × Word))
  /-- The cycles of a peer's round are counted (R206). -/
  counted : Bool
  /-- A PULL waits for the end of this block's pass or round (R324). -/
  pulled : Bool
  batchSeen : Bool
  deriving DecidableEq, Repr

/-- A step with its pass context (R24, R62). -/
structure Ctx where
  num    : Nat
  count  : Nat
  refine : Bool
  late   : Bool
  overrun : Bool
  unaligned : Bool
  preempt : Bool
  /-- Registers in force, bank, epochs and effective arrays captured at the boundary (R62). -/
  regs   : Table Word
  bank   : Nat
  selEp  : List Nat
  progEp : Nat
  freqEp : Nat
  nArr   : Nat
  /-- Arrays whose cube row must be powered before the guard check begins (R402). -/
  rowsWait : List Nat
  sharded : Bool
  batch  : Batch
  phase  : Phase
  /-- Batch rows the tiles run through, in order: all of them, or those of a rescan round (R78, R204). -/
  order  : List Nat
  chunk  : Nat
  tileT  : Nat
  tileG  : Nat
  /-- Next column block to deliver, next to fold, of the current tile. -/
  cbNext : Nat
  cbFold : Nat
  rows   : List PRow
  /-- Working copy of the current tile's rows (R80). -/
  work   : List Sel
  halves : List ResultHalf
  weights : List WeightBlk
  wAsked : List (Nat × Nat × Nat)
  /-- Adapters of the chunk still to run: tenant, slot, weight bytes when fetched (R126). -/
  adapters : List (Nat × Nat × Option (List Byte))
  /-- The first of them has been asked for, and panels of it that are absent for parity (R117). -/
  adpAsked : Bool
  adpAbsent : List Nat
  reqs   : List PReq
  pred   : Nat
  /-- Stall cycles the events of R347 have added so far (R94). -/
  stall  : Nat
  /-- Parity abandons in succession of the current tile, and of the present adapter's runs (R117; DEDUCED, log entry
  47). -/
  streak : Nat
  adpStreak : Nat
  /-- A row group is being rebuilt up to this column tile, after the last tile or not, and the mismatches met in the
  rebuild (R376). -/
  rebuild : Option (Nat × Bool)
  rebuilds : Nat
  /-- A pre-emption request awaits PASS_PARK; parked by STOP or by a PREEMPT launch (R81, R409). -/
  parkReq : Bool
  parked : Bool
  parkedByStop : Bool
  everParked : Bool
  /-- The tile under way is to be finished before parking (R81). -/
  finishTile : Bool
  partialC : Bool
  ex     : Exch
  deriving DecidableEq, Repr

/-- What a formation reads of the forming boundary (R22, R74). -/
structure FormBase where
  /-- Number of the step whose boundary this is, and the mode of the batch to form in advance: that of the entry at the head
  of the launch queue, else of this step (R22; DEDUCED, log entry 34). -/
  step    : Nat
  refine  : Bool
  entries : Table Entry
  host    : Table Word
  tenants : Table Tenant
  used    : List Nat
  regs    : Table Word
  count   : Nat
  parked  : Bool
  penPend : Bool
  penActive : Nat
  temp    : Nat
  bank    : Nat
  nArr    : Nat
  /-- Pages freed by commits of the step launched immediately before the one being formed (R263). -/
  left    : Nat
  /-- Energy account in the period of this boundary, learned corrections with their counts, and the thermal warning level
  (R404, R405, R411). -/
  acc     : Nat
  corr    : List Nat
  corrCnt : List Nat
  warn    : Nat
  deriving DecidableEq, Repr

/-- A launch entry (R63); `dueAt` is the current count at which it first became due (R66). -/
structure LaunchEnt where
  count   : Nat
  refine  : Bool
  preempt : Bool
  dueAt   : Option Nat
  deriving DecidableEq, Repr

/-! ## Table stores, configuration, clocks, power, Ridge -/

/-- The table stores reached through windows (R469), as words. -/
structure Stores where
  bitmaps : Table Word
  automata : Table Word
  bias    : Table Word
  penalty : Table Word
  prog    : Table Word
  freq    : Table Word
  bank0   : Table Word
  bank1   : Table Word
  repair  : Table Word
  deriving DecidableEq, Repr

/-- Epoch state of the six switched stores (R145, R179): MASK, AUTO, BIAS, PEN, PROG, FREQ in that order. -/
structure Epochs where
  active  : List Nat
  pending : List Bool
  refused : List Bool
  /-- Checks in progress, oldest first; each names its stores. -/
  selChecks : List (List Bool)
  progCheck : Bool
  freqCheck : Bool
  selIndex : Nat
  sfuWord : Nat
  deriving DecidableEq, Repr

/-- Configuration controller (R442 to R453). -/
structure CfgSide where
  /-- Physical bank that is active: 0 or 1. -/
  active  : Nat
  activeValid : Bool
  idleValid : Bool
  /-- Check of a SWITCH, or preparation of a ROLLBACK, in progress. -/
  checking : Bool
  rolling : Bool
  pending : Bool
  pendIsRollback : Bool
  pendIsAuto : Bool
  refused : Bool
  refuseCode : Nat
  refuseDetail : Nat
  wdOpen  : Bool
  wdLeft  : Nat
  wdRollback : Bool
  loadBusy : Bool
  /-- GLB.APERTURE.SEL as LOAD_GO captured it (R465). -/
  loadSel : Bool
  loadSrc : Nat
  loadDst : Nat
  loadLen : Nat
  loadDone : Nat
  applying : Bool
  repairDone : Bool
  repairRefused : Bool
  deriving DecidableEq, Repr

/-- An item of the power-up queue (R402): 0 common logic, 1 array, 2 cube row of an array. -/
structure RampItem where
  kind  : Nat
  index : Nat
  deriving DecidableEq, Repr

/-- Clock controller, power controller and power-good pins. -/
structure PwrSide where
  /-- rst_n is driven low; the block is held in its cold reset by rst_n or a rail (R56, R58). -/
  pinLow  : Bool
  rstLow  : Bool
  pgBase  : Bool
  pgSram  : Bool
  pgIo    : Bool
  pgCmp   : Bool
  pgMtr   : Bool
  strap   : BitVec 4
  src     : ClkSrc
  usePll  : Bool
  pllLock : Bool
  pllStarted : Bool
  refclkOk : Bool
  dawnOk  : Bool
  dawnByStrap : Bool
  /-- The judgement has begun; a refclk edge came since; windows counted; previous count (R383). -/
  judging : Bool
  refSeen : Bool
  windows : Nat
  prevWin : Nat
  dawnCount : Nat
  monCause : Nat
  fastOn  : Bool
  divCur  : Nat
  thLevel : Nat
  plLevel : Nat
  state   : PState
  dusk    : Bool
  stop    : Bool
  isolated : Bool
  waking  : Bool
  /-- Compute tier powered, and the items still queued for ramp slots (R402). -/
  cmpUp   : Bool
  ramp    : List RampItem
  /-- Arrays whose cube row the repair of the last boundary queued (R402). -/
  rowsWait : List Nat
  /-- Leading items that the running ramp slot grants, fixed as it starts; 0 while no slot runs. -/
  slot    : Nat
  /-- The compute rail has fallen since OFF was entered (R401). -/
  railFell : Bool
  tempHot : Nat
  tempSensor : Nat
  /-- THERMAL_TRIP holds the compute tier isolated until a cool evaluation after the soft reset (R455). -/
  tripHold : Bool
  /-- CLOCK_LOSS to raise when control has a clock (R390). -/
  lossPend : Bool
  acc     : Nat
  accPeriod : Nat
  corr    : List Nat
  corrAcc : List Nat
  corrCnt : List Nat
  lastPred : Nat
  lastMeas : Nat
  deriving DecidableEq, Repr

/-- A frame of a message not yet taken (R316). -/
structure RxFrame where
  src    : Nat
  kind   : Nat
  step   : Nat
  round  : Nat
  fseq   : Nat
  fcount : Nat
  /-- DST, BCAST, ANY and BDIG of the header, for the messages that read them. -/
  any    : Bool
  bdig   : Nat
  payload : List Byte
  deriving DecidableEq, Repr

/-- A BATCH or COMMIT payload kept for NAKs (R328), with the CFGE and BDIG of its frames and its sender. -/
structure KeptMsg where
  kind   : Nat
  step   : Nat
  src    : Nat
  cfge   : Nat
  bdig   : Nat
  payload : List Byte
  deriving DecidableEq, Repr

/-- Ridge port and group state (R305 to R341). -/
structure RdgSide where
  halt    : Bool
  resync  : Bool
  missing : List Nat
  gfault  : Nat
  gshard  : Nat
  gfstep  : Nat
  lastCommit : Nat
  clearPend : Bool
  /-- Period in which GROUP_FAULT was last raised (R337). -/
  irqPeriod : Option Nat
  /-- Frames of messages not yet taken: those received in FSEQ order, which are consumed as they come, and the early ones
  that the 64 KiB receive buffer holds (R47, R316). -/
  rx      : List RxFrame
  /-- Messages already taken for steps still held, as source, kind, step and round (R316 rule 5, R317). -/
  taken   : List (Nat × Nat × Nat × Nat)
  /-- BATCH and COMMIT messages of the last two sharded steps (R328). -/
  kept    : List KeptMsg
  /-- Newest step launched, if any, and the steps completed or abandoned (R316 rules 3 and 4). -/
  newest  : Option Nat
  /-- Newest step whose launch came up, launched or skipped (R331, R340). -/
  seen    : Option Nat
  ended   : List Nat
  deriving DecidableEq, Repr

/-! ## Meter -/

/-- One-way strobes toward the meter island (R419). -/
inductive Strobe where
  | intent (tenant committed discarded scored verified : Nat)
  | confirm (tenant committed discarded scored verified : Nat)
  | cancel (tenant committed discarded scored verified : Nat)
  | discard (tenant n : Nat)
  | openDrop
  /-- rst_n as the meter's own synchroniser sees it: OPEN_DROP without a strobe (R421). -/
  | rstDrop
  | stepRows (tenant rows : Nat)
  | stepEnd (step : Nat) (attr : Bool)
  | idle
  | count (count period : Nat)
  | clock (hold : Bool)
  deriving DecidableEq, Repr

/-- Counters of a tenant (R417, R418), energy in nJ, and its open sums (R420). -/
structure MCount where
  commit : Nat
  discard : Nat
  scored : Nat
  draft  : Nat
  nj     : Nat
  unresolved : Nat
  oCommit : Nat
  oDiscard : Nat
  oScored : Nat
  oDraft : Nat
  deriving DecidableEq, Repr

/-- The calibration fields of R426. -/
structure Calib where
  recPeriods : Nat
  recMax  : Nat
  gainCmp : Nat
  gainBase : Nat
  gainSram : Nat
  calId   : Nat
  deriving DecidableEq, Repr

/-- The meter island (R415). -/
structure Island where
  on      : Bool
  sk      : SkState
  /-- SEALED has been reached since pg_mtr rose (R430). -/
  wasSealed : Bool
  /-- Bytes of the seal-key load received, in order (R54). -/
  load    : List Byte
  key     : List Byte
  cal     : Calib
  calDigest : List Byte
  tens    : Table MCount
  ovhNj   : Nat
  steps   : Nat
  strobeErr : Nat
  monTrips : Nat
  holds   : Nat
  rowTab  : Table Nat
  count   : Nat
  period  : Nat
  /-- A COUNT arrived since the previous record; triggers since it; records begun so far. -/
  countNew : Bool
  triggers : Nat
  seq     : Nat
  prevPeriod : Nat
  preseal : Bool
  resetSeen : Bool
  faultSeen : Bool
  /-- Counters as the previous record's snapshot held them (R429). -/
  snap    : Table MCount
  /-- Record under transmission. -/
  sending : Option (List Byte)
  deriving DecidableEq, Repr

/-- The MTR mirror (R433). -/
structure Mirror where
  valid  : Bool
  header : List Byte
  tens   : Table (List Byte)
  /-- SK_STATE as mirrored, and as the island drives it; in OFF the first stands still (R401). -/
  sk     : SkState
  live   : SkState
  deriving DecidableEq, Repr

/-! ## Port outputs -/

/-- What the block drives on its ports, oldest first (the model's own log, entry 4). -/
inductive PortOut where
  /-- Register-port response: code 0 OKAY, 1 ERROR, 2 HOLD; read data with its parity (R34, R35). -/
  | rsp (code : Nat) (data : Word) (par : BitVec 4)
  /-- Memory request (R40): port, tag, kind, tenant sideband, physical address, beats. -/
  | read (port tag kind tenant phys beats : Nat)
  /-- Memory write: port, tag, kind, tenant sideband, physical address, byte offset and the bytes enabled,
  each with its parity bit (R34). -/
  | write (port tag kind tenant phys off : Nat) (data : List Byte) (par : List Bool)
  /-- Ridge frame, each byte with its parity bit (R34, R312). -/
  | frame (bytes : List Byte) (par : List Bool)
  /-- Cairn record on mt_ (R429). -/
  | cairn (bytes : List Byte)
  /-- irq_meter pulse (R53). -/
  | irqMeter
  deriving DecidableEq, Repr

/-! ## The block -/

/-- The register side: values written, values in force, flags, counters, holds (R12 to R15, R61, R463). -/
structure RegSide where
  /-- RW and RW-step fields as written, by register address; unlisted: the reset value. -/
  written : Table Word
  /-- RW-step values in force (R61). -/
  inForce : Table Word
  /-- W1C bits of the STATUS registers, by register address. -/
  flags   : Table Word
  /-- IRQ_STAT, by page base address. -/
  irq     : Table Word
  /-- Saturating RO counters, by register address. -/
  counts  : Table Nat
  /-- Hold registers, by the address of the latched register. -/
  holds   : Table Word
  /-- Pages with a page soft reset pending, by base address (R434). -/
  resetPend : List Nat
  /-- RW-step registers of those pages written after the reset was asked for (R434). -/
  sinceReset : List Nat
  /-- Gate states, by page base; unlisted: RUNNING. -/
  gates   : List (Nat × GateState)
  /-- Pages whose gate request follows the wake under way (R396). -/
  gateAfter : List Nat
  /-- ERR_ADDR with WRITE, and ERR_CAUSE, of DBG (R467). -/
  errAddr : Nat
  errCause : Nat
  /-- An RW-step field of SCH, REQ or a tenant was written, or a bank switch requested, since the batch
  formed in advance was formed (R75). -/
  stale   : Bool
  deriving DecidableEq, Repr

/-- Results a step leaves in the SCH and SMP pages. -/
structure StepRegs where
  pred   : Nat
  cycles : Nat
  stall  : Int
  outcome : Outcm
  reason : Nat
  partialC : Bool
  late   : Bool
  overrun : Bool
  unaligned : Bool
  num    : Nat
  doneNum : Nat
  digest : Word
  digestStep : Nat
  genBusy : Bool
  genOut : List Word
  genGumbel : Word
  deriving DecidableEq, Repr

/-- Everything outside the meter island. -/
structure Block where
  grade   : Grade
  testMode : Bool
  reg     : RegSide
  stores  : Stores
  epochs  : Epochs
  cfg     : CfgSide
  pwr     : PwrSide
  mem     : MemSide
  rdg     : RdgSide
  step    : StepRegs
  /-- GLB: fault state, SRAM clear, soft reset, first boundary (R458). -/
  fault   : Bool
  faultCode : Nat
  faultAddr : Nat
  sramInit : Bool
  resetting : Bool
  launched : Bool
  /-- Meridian receiver (R48, R49, R69): whether mc_tick runs (log entry 99), the current count, good words in
  succession. -/
  mcTick  : Bool
  count   : Option Nat
  goodRun : Nat
  launchQ : List LaunchEnt
  /-- Request table, spill directory, page pool, completion counters. -/
  host    : Table Word
  dirHost : Table Word
  entries : Table Entry
  dir     : Table DirEntry
  used    : List Nat
  counters : Table Nat
  batchSeq : Nat
  /-- Pages freed by commits of the step launched last (R263). -/
  leftPages : Nat
  tenants : Table Tenant
  /-- Period of the last refill: every tenant's is that of the last boundary that refilled (R285). -/
  lastRefill : Option Nat
  /-- Forming boundary of the step launched last, the batch formed in advance, and whether any batch of
  that step's stages 5 to 8 is still to be formed. -/
  forming : Option FormBase
  formed  : Option Batch
  /-- Pass contexts (R24): index 0 and 1; the one running. -/
  ctx0    : Option Ctx
  ctx1    : Option Ctx
  running : Option Nat
  /-- Effective arrays (R121): physical arrays in use in logical order, and repairs in force. -/
  arrays  : List Nat
  nArr    : Nat
  repairs : List Word
  strobes : List Strobe
  mirror  : Mirror
  out     : List PortOut
  /-- How many free values the run has taken (log entry 1). -/
  fresh   : Nat
  deriving DecidableEq, Repr

/-- The machine: the block, the meter island and the queue of commands. -/
structure State where
  blk     : Block
  isl     : Island
  pending : List Instr
  deriving DecidableEq, Repr

/-! ## Reset values -/

/-- Governor state at admission (R233). -/
def Gov.zeroed : Gov := ⟨0, 0, 0, false, 0⟩

/-- A FREE entry after a cold or block reset (R277). -/
def Entry.freed : Entry :=
  { state := .free, ackSeq := 0, efault := 0, pin := 0, nextSlot := 0, lateSeen := false, len := 0, new := 0,
    seq := 0, gov := Gov.zeroed, tail := [], spillIdx := 0, blockTime := 0, lastStep := 0, tenant := 0,
    refine := false, reqId := 0, discarded := 0, rejected := 0, mask := ⟨0, 0, 0, 0, 0, 0⟩, pages := [],
    hist := .seq 0 0 0 0 [] [], refP := 0, refT := 0, depthInit := 0, adm := [], counter := 0, chunk := none, cancelDone := false, since := 0,
    autoCancel := false, arrive := none, overtaken := false }

/-- A FREE directory entry (R277). -/
def DirEntry.freed : DirEntry := ⟨.free, 0, 0, 0, 0, 0, [], none, false, none, false, (0, 0, 0)⟩

/-- A tenant after a cold reset (R281, R285, R290). -/
def Tenant.cold : Tenant :=
  { state := .dusk, balance := 0, grant := 0, fair := 0, faultCode := 0, faultAddr := 0,
    faultMore := 0, clearPend := false, sinceCode := 0, sinceAddr := 0, sinceN := 0, entryFaults := 0,
    resetPend := false, cancelsDone := false }

/-- Counters of a tenant after pg_mtr rises (R57, R58). -/
def MCount.zeroed : MCount := ⟨0, 0, 0, 0, 0, 0, 0, 0, 0, 0⟩

/-- Calibration defaults until SEALED (R427). -/
def Calib.unsealed : Calib := ⟨1, 64, 0x40000, 0x40000, 0x40000, 0⟩

/-- The island right after pg_mtr rises (R57, R58, R432). -/
def Island.fresh : Island :=
  { on := true, sk := .open, wasSealed := false, load := [], key := [], cal := Calib.unsealed, calDigest := List.replicate 32 0,
    tens := [], ovhNj := 0, steps := 0, strobeErr := 0, monTrips := 0, holds := 0, rowTab := [], count := 0,
    period := 0, countNew := false, triggers := 0, seq := 0, prevPeriod := 0, preseal := false,
    resetSeen := false, faultSeen := false, snap := [], sending := none }

/-- Register side after a cold reset. -/
def RegSide.cold : RegSide := ⟨[], [], [], [], [], [], [], [], [], [], 0, 0, false⟩

/-- Clock and power side at a cold reset with every rail counted high (log entry 3). -/
def PwrSide.cold : PwrSide :=
  { pinLow := true, rstLow := true, pgBase := true, pgSram := true, pgIo := true, pgCmp := true, pgMtr := true, strap := 0,
    src := .start, usePll := true, pllLock := false, pllStarted := false, refclkOk := false, dawnOk := false,
    dawnByStrap := false, judging := false, refSeen := false, windows := 0, prevWin := 0, dawnCount := 0,
    monCause := 0, fastOn := false, divCur := 8, thLevel := 2, plLevel := 2, state := .run, dusk := false,
    stop := false, isolated := false, waking := false, cmpUp := false, ramp := [], rowsWait := [], slot := 0, railFell := false, tempHot := 0,
    tempSensor := 0, tripHold := false, lossPend := false, acc := 0, accPeriod := 0,
    corr := [0x1000, 0x1000, 0x1000, 0x1000], corrAcc := [0, 0, 0, 0], corrCnt := [0, 0, 0, 0],
    lastPred := 0, lastMeas := 0 }

/-- Configuration side after a cold reset (R447, R457). -/
def CfgSide.cold : CfgSide :=
  { active := 0, activeValid := false, idleValid := false, checking := false, rolling := false,
    pending := false, pendIsRollback := false, pendIsAuto := false, refused := false, refuseCode := 0,
    refuseDetail := 0, wdOpen := false, wdLeft := 0, wdRollback := false, loadBusy := false, loadSel := false,
    loadSrc := 0, loadDst := 0, loadLen := 0, loadDone := 0, applying := false,
    repairDone := false, repairRefused := false }

/-- Epoch 0 of every store active after a cold reset (R139, R178). -/
def Epochs.cold : Epochs :=
  { active := [0, 0, 0, 0, 0, 0], pending := List.replicate 6 false, refused := List.replicate 6 false,
    selChecks := [], progCheck := false, freqCheck := false, selIndex := 0, sfuWord := 0 }

/-- Memory side with nothing outstanding. -/
def MemSide.cold : MemSide := ⟨[], [], 0, [], [], [], [], [], false, []⟩

/-- Ridge side after a cold reset. -/
def RdgSide.cold : RdgSide :=
  { halt := false, resync := false, missing := [], gfault := 0, gshard := 0, gfstep := 0, lastCommit := 0,
    clearPend := false, irqPeriod := none, rx := [], taken := [], kept := [], newest := none, seen := none, ended := [] }

/-- SCH and SMP results after a cold or block reset. -/
def StepRegs.cold : StepRegs :=
  { pred := 0, cycles := 0, stall := 0, outcome := .none, reason := 0, partialC := false, late := false,
    overrun := false, unaligned := false, num := 0, doneNum := 0, digest := 0, digestStep := 0,
    genBusy := false, genOut := [0, 0, 0, 0], genGumbel := 0 }

/-- The MTR mirror with nothing mirrored (R433). -/
def Mirror.cold : Mirror := ⟨false, [], [], .open, .open⟩

/-- The block in a cold reset (R434). -/
def Block.cold (grade : Grade) (mirror : Mirror) : Block :=
  { grade := grade, testMode := false, reg := RegSide.cold,
    stores := ⟨[], [], [], [], [], [], [], [], []⟩, epochs := Epochs.cold, cfg := CfgSide.cold,
    pwr := PwrSide.cold, mem := MemSide.cold, rdg := RdgSide.cold, step := StepRegs.cold,
    fault := false, faultCode := 0, faultAddr := 0, sramInit := true, resetting := false, launched := false,
    mcTick := true, count := none, goodRun := 0, launchQ := [], host := [], dirHost := [],
    entries := [], dir := [], used := [], counters := [], batchSeq := 0, leftPages := 0, tenants := [], lastRefill := none,
    forming := none, formed := none, ctx0 := none, ctx1 := none, running := none, arrays := [], nArr := 0,
    repairs := [0, 0, 0, 0], strobes := [], mirror := mirror, out := [], fresh := 0 }

/-- The machine in its cold reset: rails counted high, rst_n low, the meter island just powered, no command
waiting (R434, R436; log entries 2 and 3). -/
def State.reset : State := ⟨Block.cold .x4 Mirror.cold, Island.fresh, []⟩

end Sys2Proof.Machine
end

