-- ==== Sys2Proof/Machine/RegMap.lean ====
section
/-! DEFINITION. The register map of spec 17: where pages and windows lie, and for every RW and RW-step
register its reset value, its writable bits and its range check. Registers are named by their byte address in
the register window. -/

namespace Sys2Proof.Machine

/-! ## Pages (R459, R460) -/

/-- A register page. -/
inductive Page where
  | glb | clk | pwr | cfg | mer | sch | req | sfu | sel | smp | spc | xlt | rdg | mtr | dbg
  | ary (n : Nat) | mem (n : Nat) | ten (n : Nat)
  deriving DecidableEq, Repr

/-- The page at a page index of 0x000 to 0x4FF (R459, R460). -/
def pageAt (i : Nat) : Option Page :=
  match i with
  | 0x00 => some .glb
  | 0x01 => some .clk
  | 0x02 => some .pwr
  | 0x03 => some .cfg
  | 0x04 => some .mer
  | 0x05 => some .sch
  | 0x06 => some .req
  | 0x07 => some .sfu
  | 0x08 => some .sel
  | 0x09 => some .smp
  | 0x0A => some .spc
  | 0x0B => some .xlt
  | 0x0C => some .rdg
  | 0x0D => some .mtr
  | 0x0E => some .dbg
  | i =>
    if 0x10 ≤ i && i ≤ 0x13 then some (.ary (i - 0x10))
    else if 0x14 ≤ i && i ≤ 0x17 then some (.mem (i - 0x14))
    else if 0x100 ≤ i && i ≤ 0x4FF then some (.ten (i - 0x100))
    else none

/-- Base address of a page. -/
def pageBase : Page → Nat
  | .glb => 0x000000
  | .clk => 0x001000
  | .pwr => 0x002000
  | .cfg => 0x003000
  | .mer => 0x004000
  | .sch => 0x005000
  | .req => 0x006000
  | .sfu => 0x007000
  | .sel => 0x008000
  | .smp => 0x009000
  | .spc => 0x00A000
  | .xlt => 0x00B000
  | .rdg => 0x00C000
  | .mtr => 0x00D000
  | .dbg => 0x00E000
  | .ary n => 0x010000 + n * 0x1000
  | .mem n => 0x014000 + n * 0x1000
  | .ten n => 0x100000 + n * 0x1000

/-- PAGE_ID.TYPE (R460). -/
def pageType : Page → Nat
  | .glb => 0x01
  | .clk => 0x02
  | .pwr => 0x03
  | .cfg => 0x04
  | .mer => 0x05
  | .sch => 0x06
  | .req => 0x07
  | .sfu => 0x08
  | .sel => 0x09
  | .smp => 0x0A
  | .spc => 0x0B
  | .xlt => 0x0C
  | .rdg => 0x0D
  | .mtr => 0x0E
  | .dbg => 0x0F
  | .ary _ => 0x10
  | .mem _ => 0x11
  | .ten _ => 0x20

/-- PAGE_ID.INSTANCE (R460). -/
def pageInst : Page → Nat
  | .ary n => n
  | .mem n => n
  | .ten n => n
  | _ => 0

/-- Whether the page appears in the table of R395. -/
def gateable : Page → Bool
  | .sfu => true
  | .sel => true
  | .smp => true
  | .spc => true
  | .rdg => true
  | .dbg => true
  | .ary _ => true
  | _ => false

/-- Address of a tenant-page register. -/
def tenReg (n off : Nat) : Nat := 0x100000 + n * 0x1000 + off

/-- Address of a policy-record register (R278, R470). -/
def tpolReg (n off : Nat) : Nat := 0xFC0000 + n * 0x40 + off

/-- Defined bits of IRQ_RAW, IRQ_EN and IRQ_STAT of a page (R462). -/
def irqMask : Page → Word
  | .glb => 0x7
  | .clk => 0x3
  | .pwr => 0x3F
  | .cfg => 0x3
  | .mer => 0xF
  | .sch => 0x7
  | .req => 0x7
  | .sfu => 0x1
  | .sel => 0x1
  | .smp => 0x3
  | .xlt => 0x3
  | .rdg => 0x1
  | .ary _ => 0x3
  | .mem _ => 0x7
  | .ten _ => 0x3F
  | _ => 0

/-- W1C bits of the STATUS register of a page. -/
def w1cMask : Page → Word
  | .clk => 0x80
  | .pwr => 0x80
  | .cfg => 0x1960
  | .mer => 0xB
  | .sch => 0x1
  | .req => 0x7
  | .sfu => 0x3
  | .sel => 0x1
  | .spc => 0x1
  | .xlt => 0x1
  | .rdg => 0x10
  | .mem _ => 0x1
  | .ten _ => 0x18
  | _ => 0

/-- Bit of STATUS that a refused write of the page sets (BAD_PARAM). -/
def badBit : Page → Option Nat
  | .clk => some 7
  | .pwr => some 7
  | .cfg => some 12
  | .mer => some 3
  | .sch => some 0
  | .req => some 2
  | .sfu => some 0
  | .spc => some 0
  | .xlt => some 0
  | .rdg => some 4
  | .mem _ => some 0
  | .ten _ => some 3
  | _ => none

/-! ## RW and RW-step registers -/

/-- How a register takes a write: RW-step or RW, reset value, and what a write over `old` leaves with
whether it was refused in part or whole; `rd` reads other registers as written. -/
structure RwDef where
  step  : Bool
  reset : Word
  merge : (rd : Nat → Word) → (old new : Word) → Word × Bool

/-- A register whose writable bits are `mask`, any value allowed (R12). -/
def plain (step : Bool) (mask reset : Word) : RwDef := ⟨step, reset, fun _ _ n => (n &&& mask, false)⟩

/-- One field [hi:lo] with its range, beside what other fields leave. -/
def fieldMerge (f : Nat × Nat × Nat × Nat) (old new : Word) (acc : Word × Bool) : Word × Bool :=
  let v := bits new f.1 f.2.1
  if f.2.2.1 ≤ v && v ≤ f.2.2.2 then (acc.1 ||| w32 (v * 2 ^ f.2.1), acc.2)
  else (acc.1 ||| w32 (bits old f.1 f.2.1 * 2 ^ f.2.1), true)

/-- Fields (hi, lo, least, greatest): a value outside its range leaves that field unchanged (R17). -/
def ranged (step : Bool) (reset : Word) (fs : List (Nat × Nat × Nat × Nat)) : RwDef :=
  ⟨step, reset, fun _ o n => fs.foldl (fun acc f => fieldMerge f o n acc) (0, false)⟩

/-- A register refused as a whole when a value breaks `ok`. -/
def whole (step : Bool) (mask reset : Word) (ok : Word → Bool) : RwDef :=
  ⟨step, reset, fun _ o n => if ok n then (n &&& mask, false) else (o, true)⟩

/-- Address low word: bits [31:6]. -/
def addrLo (step : Bool) : RwDef := plain step 0xFFFFFFC0 0
/-- Address high word: bits [15:0]. -/
def addrHi (step : Bool) : RwDef := plain step 0xFFFF 0
/-- A full 32-bit register. -/
def full (step : Bool) (reset : Word) : RwDef := plain step 0xFFFFFFFF reset
/-- A full 32-bit register whose zero value is out of range. -/
def nonzero (step : Bool) (reset : Word) : RwDef := ranged step reset [(31, 0, 1, 0xFFFFFFFF)]

/-- Region words of R365: reserved bits set, or SIZE 0 written while EN is 1, are refused. `w0` is the region's
first register. -/
def regionDef (off : Nat) (w0 : Nat) : Option RwDef :=
  match off with
  | 0x00 => some (whole true 0xFFFFF007 0 fun n => n &&& 0xFF8 = 0)
  | 0x04 => some (whole true 0xFFFF 0 fun n => n &&& 0xFFFF0000 = 0)
  | 0x08 => some (whole true 0xFFFFF000 0 fun n => n &&& 0xFFF = 0)
  | 0x0C => some (whole true 0xFFFF 0 fun n => n &&& 0xFFFF0000 = 0)
  | 0x10 => some ⟨true, 0, fun rd o n => if n = 0 && bit (rd w0) 0 then (o, true) else (n, false)⟩
  | 0x14 => some (whole true 0 0 fun n => n = 0)
  | 0x18 => some (whole true 0 0 fun n => n = 0)
  | 0x1C => some (whole true 0 0 fun n => n = 0)
  | _ => none

/-- Governor control: every field in range and D_MIN not above D_MAX (R232). -/
def govOk (n : Word) : Bool :=
  1 ≤ bits n 4 0 && bits n 4 0 ≤ 16 && 1 ≤ bits n 9 5 && bits n 9 5 ≤ 16 && bits n 4 0 ≤ bits n 9 5 &&
  1 ≤ bits n 15 10 && 1 ≤ bits n 31 24

/-- Four DROP bytes, each 1 to 16 (R232). -/
def dropOk (n : Word) : Bool :=
  [0, 8, 16, 24].all fun l => 1 ≤ bits n (l + 7) l && bits n (l + 7) l ≤ 16

/-- Threshold order of R414. -/
def thermOk (n : Word) : Bool :=
  bits n 7 0 ≤ bits n 15 8 && bits n 15 8 < bits n 23 16 && bits n 23 16 < bits n 31 24 && bits n 31 24 ≤ 125

/-- RW and RW-step registers of a tenant page by offset (R122, R217, R238, R303, R365, R368). -/
def tenDef (n off : Nat) : Option RwDef :=
  if 0x800 ≤ off then
    regionDef (off % 0x20) (tenReg n (0x800 + (off - 0x800) / 0x20 * 0x20))
  else if 0x100 ≤ off && off < 0x140 then
    match off % 0x10 with
    | 0x0 => some (whole true 0xFF 0x2 fun w =>
        1 ≤ bits w 3 1 && bits w 3 1 ≤ 4 && bits w 5 4 ≠ 3 && bits w 7 6 ≠ 3)
    | 0x4 => some (addrLo true)
    | 0x8 => some (addrHi true)
    | 0xC => some (whole true 0xFFFFFFFF 0 ffinite)
    | _ => none
  else if 0x180 ≤ off && off < 0x200 then
    match off % 0x20 with
    | 0x00 => some (whole true 0x3F 20 fun w => 4 ≤ bits w 5 1 && bits w 5 1 ≤ 20)
    | 0x04 => some ⟨true, 0, fun rd o w =>
        let lg := bits (rd (tenReg n (off / 0x20 * 0x20))) 5 1
        let v := w &&& 0xFFFFFFC0
        if v.toNat % 2 ^ (lg + 5) = 0 then (v, false) else (o, true)⟩
    | 0x08 => some (addrHi true)
    | 0x10 => some (full false 0)
    | _ => none
  else match off with
    | 0x014 => some (plain false 0x3F 0)
    | 0x094 => some (plain false 0xFFFF 0)
    | 0x0A4 => some (plain true 0x1 0)
    | 0x0A8 => some (plain true 0xFFFFF000 0)
    | 0x0AC => some (addrHi true)
    | 0x0C0 => some (full true 0)
    | 0x0C4 => some (full true 0)
    | 0x0C8 => some (full true 0)
    | 0x0CC => some (full true 0)
    | _ => none

/-- Policy-record registers (R278). -/
def tpolDef (n off : Nat) : Option RwDef :=
  match off with
  | 0x00 => some (whole true 0xFFF03 0x100 fun w => 1 ≤ bits w 15 8 && bits w 19 16 ≤ 9)
  | 0x04 => some (whole true 0xFFFFFFFF 0 fun w => w.toNat ≤ 0x7FFFFFFF)
  | 0x08 => some (whole true 0xFFFFFFFF 0 fun w => w.toNat ≤ 0x7FFFFFFF)
  | 0x10 => some ⟨true, 0, fun rd o w =>
      if bits w 15 0 + bits (rd (tpolReg n 0x14)) 16 0 ≤ 65536 then (w &&& 0xFFFF, false) else (o, true)⟩
  | 0x14 => some ⟨true, 0, fun rd o w =>
      if bits w 16 0 + bits (rd (tpolReg n 0x10)) 15 0 ≤ 65536 then (w &&& 0x1FFFF, false) else (o, true)⟩
  | 0x18 => some (addrLo true)
  | 0x1C => some (addrHi true)
  | _ => none

/-- RW and RW-step registers of a block page by offset. -/
def pageDef (p : Page) (off : Nat) : Option RwDef :=
  match p with
  | .glb => match off with
    | 0x008 => some (plain false 0x1 0x1)
    | 0x100 => some (plain false 0x1 0)
    | _ => none
  | .clk => match off with
    | 0x080 => some (ranged false 0x2 [(3, 0, 2, 8)])
    | _ => none
  | .pwr => match off with
    | 0x080 => some (whole false 0x7 0 fun w => bits w 2 0 = 0 || (2 ≤ bits w 2 0 && bits w 2 0 ≤ 4))
    | 0x084 => some (ranged false 0x210640 [(15, 0, 400, 65535), (18, 16, 1, 4), (22, 19, 1, 8)])
    | 0x088 => some (full true 0)
    | 0x08C => some (nonzero true 1000000)
    | 0x090 => some (nonzero true 1000000)
    | 0x094 => some (nonzero true 1000000)
    | 0x098 => some (nonzero true 1000000)
    | 0x0C0 => some (whole false 0xFFFFFFFF 0x7369645F thermOk)
    | 0x0C4 => some (ranged true 128 [(13, 0, 1, 8192)])
    | 0x0C8 => some (ranged false 110 [(7, 0, 1, 255)])
    | _ => none
  | .cfg => match off with
    | 0x09C => some (plain false 0xFFFF 0)
    | 0x0A4 => some (addrLo false)
    | 0x0A8 => some (addrHi false)
    | 0x0AC => some (plain false 0xFFFFC0 0)
    | 0x0B0 => some (ranged false 0 [(16, 0, 1, 65536)])
    | _ => none
  | .mer => match off with
    | 0x080 => some (full false 0)
    | 0x084 => some (full false 0)
    | 0x0A0 => some (nonzero true 1000)
    | _ => none
  | .sch => match off with
    | 0x008 => some (plain true 0x3 0x1)
    | 0x080 => some (ranged true 1024 [(15, 0, 64, 65535)])
    | 0x084 => some (ranged true 1024 [(12, 0, 64, 4096)])
    | 0x088 => some (ranged true 256 [(15, 0, 16, 65535)])
    | 0x08C => some (ranged true 160000 [(23, 0, 1024, 16777215)])
    | 0x090 => some (ranged true 4096 [(13, 0, 0, 8576)])
    | 0x0A0 => some (plain true 0xFFFFFFF8 0)
    | 0x0A4 => some (addrHi true)
    | 0x0A8 => some (plain true 0xFFFFFFF8 0)
    | 0x0AC => some (addrHi true)
    | _ => none
  | .req => match off with
    | 0x080 => some (ranged true 0 [(20, 0, 0, 1048576)])
    | 0x084 => some (ranged true 8 [(3, 0, 4, 12)])
    | 0x08C => some (ranged true 256 [(15, 0, 1, 65535)])
    | 0x090 => some (nonzero true 1600)
    | 0x094 => some (full true 0)
    | 0x098 => some (addrLo true)
    | 0x09C => some (addrHi true)
    | 0x0A0 => some (addrLo true)
    | 0x0A4 => some (addrHi true)
    | 0x0A8 => some (full true 0)
    | 0x0AC => some (addrLo true)
    | 0x0B0 => some (addrHi true)
    | 0x0B4 => some (ranged true 0 [(14, 0, 0, 16384)])
    | _ => none
  | .sfu => match off with
    | 0x080 => some (whole true 0x7F 0x20 fun w => bits w 4 2 ≠ 7)
    | 0x08C => some (plain true 0x1 0)
    | _ => none
  | .smp => if (0x090 ≤ off && off < 0x0B0) && off % 4 = 0 then some (full false 0) else none
  | .spc =>
    if 0x080 ≤ off && off < 0x180 then
      match off % 0x20 with
      | 0x00 => some (whole true 0xFFFFFFFF 0x10081081 govOk)
      | 0x04 => some (ranged true 1 [(4, 0, 1, 16)])
      | 0x08 => some (whole true 0xFFFFFFFF 0x04030201 dropOk)
      | 0x0C => some (whole true 0xFFFFFFFF 0x08070605 dropOk)
      | 0x10 => some (whole true 0xFFFFFFFF 0x0C0B0A09 dropOk)
      | 0x14 => some (whole true 0xFFFFFFFF 0x100F0E0D dropOk)
      | _ => none
    else none
  | .xlt =>
    if 0x800 ≤ off && off < 0xA00 then
      regionDef (off % 0x20) (0x00B000 + off / 0x20 * 0x20)
    else match off with
      | 0x008 => some (plain true 0x1 0)
      | 0x084 => some (plain false 0x7FF 0)
      | _ => none
  | .rdg => match off with
    | 0x090 => some (ranged true 2048 [(15, 0, 64, 65535)])
    | 0x094 => some (ranged true 16 [(4, 0, 1, 20)])
    | 0x098 => some (ranged true 4096 [(19, 0, 256, 1048575)])
    | 0x09C => some (ranged true 4 [(3, 0, 0, 15)])
    | 0x0A0 => some (ranged true 1600000 [(27, 0, 16384, 268435455)])
    | _ => none
  | .mtr => match off with
    | 0x0CC => some (plain false 0x1FFF 0)
    | _ => none
  | .dbg => if (0x080 ≤ off && off < 0x090) && off % 4 = 0 then some (full false 0) else none
  | .ary _ => match off with
    | 0x080 => some (plain true 0x1F 0)
    | _ => none
  | .mem _ => match off with
    | 0x080 => some (ranged false 1000000 [(23, 0, 1024, 16777215)])
    | 0x084 => some (ranged true 64 [(6, 0, 1, 64)])
    | _ => none
  | .ten n => tenDef n off
  | .sel => none

/-- The RW or RW-step register at an address, IRQ_EN of every page included (R461, R462). -/
def rwDef (a : Nat) : Option RwDef :=
  if 0xFC0000 ≤ a && a < 0xFD0000 then tpolDef ((a - 0xFC0000) / 0x40) (a % 0x40)
  else match pageAt (a / 0x1000) with
    | none => none
    | some p =>
      if a % 0x1000 = 0x014 then some (plain false (irqMask p) (if p = .glb then 1 else 0))
      else pageDef p (a % 0x1000)

/-- Reset value of a register. -/
def resetVal (a : Nat) : Word :=
  match rwDef a with
  | some d => d.reset
  | none => 0

/-- Whether the register at an address is RW-step. -/
def isStep (a : Nat) : Bool :=
  match rwDef a with
  | some d => d.step
  | none => false

/-- Registers that a read of `a` latches (R463 and the rules it names). -/
def latched (a : Nat) : List Nat :=
  let off := a % 0x1000
  match pageAt (a / 0x1000) with
  | some .pwr => if off = 0x0AC then [a + 4] else []
  | some .cfg => if off = 0x088 then [a + 4] else []
  | some .mer => if off = 0x098 then [a + 4] else []
  | some .sch =>
    if off = 0x0B0 then [a + 4]
    else if off = 0x0B8 then [a + 4, a + 8]
    else if off = 0x0C8 then [a + 4, a - 4]
    else []
  | some .xlt => if off = 0x08C then [a + 4, a + 8] else []
  | some .rdg => if off = 0x0A8 || off = 0x0B0 then [a + 4] else []
  | some .dbg => if off = 0x090 then [a + 4] else []
  | some .mtr =>
    if off = 0x080 || off = 0x088 || off = 0x094 || off = 0x0BC || off = 0x0D0 then [a + 4] else []
  | some (.ten _) =>
    if off = 0x084 || off = 0x098 || off = 0x0A8 then [a + 4]
    else if 0x100 ≤ off && off < 0x140 && off % 0x10 = 0x4 then [a + 4]
    else if 0x180 ≤ off && off < 0x200 && off % 0x20 = 0x4 then [a + 4]
    else []
  | _ => []

/-- Registers read through a hold register. -/
def isLatched (a : Nat) : Bool :=
  (4 ≤ a && (latched (a - 4)).contains a) || (8 ≤ a && (latched (a - 8)).contains a) ||
    (latched (a + 4)).contains a

/-- Saturating RO counters of the block pages, as page and offset. -/
def isCounter (p : Page) (off : Nat) : Bool :=
  match p with
  | .clk => off = 0x08C
  | .pwr => off = 0x0CC
  | .mer => off = 0x090 || off = 0x094
  | .req => off = 0x0BC || off = 0x0C0
  | .sfu => off = 0x084 || off = 0x088
  | .sel => off = 0x088 || off = 0x08C || off = 0x090 || off = 0x094 || off = 0x098
  | .smp => off = 0x080 || off = 0x084 || off = 0x088 || off = 0x08C
  | .xlt => off = 0x09C
  | .rdg => (0x0B8 ≤ off && off ≤ 0x0D4) && off % 4 = 0
  | .dbg => off = 0x098
  | .ary _ => off = 0x084 || off = 0x088 || off = 0x08C
  | .mem _ => off = 0x08C || off = 0x090 || off = 0x094
  | _ => false

/-! ## Table windows (R459, R465, R469) -/

/-- The table windows. -/
inductive Win where
  | reqTable | bitmaps | automata | bias | penalty | config | prog | freq | dir | policy | repair
  deriving DecidableEq, Repr

/-- Window and byte offset at an address of 0x50_0000 and above, with GLB.APERTURE.SEL. -/
def winAt (sel : Bool) (a : Nat) : Option (Win × Nat) :=
  if a < 0x500000 then none
  else if a < 0xD00000 then
    if sel then
      if a < 0x900000 then some (.bitmaps, a - 0x500000)
      else if a < 0xA00000 then some (.automata, a - 0x900000)
      else if a < 0xB00000 then some (.bias, a - 0xA00000)
      else if a < 0xB04000 then some (.penalty, a - 0xB00000)
      else none
    else some (.reqTable, a - 0x500000)
  else if a < 0xF00000 then some (.config, a - 0xD00000)
  else if a < 0xF40000 then some (.prog, a - 0xF00000)
  else if a < 0xF80000 then some (.freq, a - 0xF40000)
  else if a < 0xFC0000 then some (.dir, a - 0xF80000)
  else if a < 0xFD0000 then some (.policy, a - 0xFC0000)
  else if a < 0xFE0000 then some (.repair, a - 0xFD0000)
  else none

/-- Owner page of a window, for gating (R469). -/
def winOwner : Win → Option Page
  | .bitmaps => some .sel
  | .automata => some .sel
  | .bias => some .sel
  | .penalty => some .sel
  | .prog => some .sfu
  | .freq => some .sfu
  | _ => none

end Sys2Proof.Machine
end

