-- ==== Sys2Proof/Machine/Flags.lean ====
section
/-! DEFINITION. Status flags, interrupt bits, saturating counters and the interrupt outputs: every flag
computation of the manual that is shared by more than one command. -/

namespace Sys2Proof.Machine

/-- Set bit `b` of a page's IRQ_STAT: an event of R462. -/
def irqRaise (p : Page) (b : Nat) (s : Block) : Block :=
  { s with reg := { s.reg with irq := tmod zeroWord s.reg.irq (pageBase p) fun w => w ||| w32 (2 ^ b) } }

/-- IRQ_STAT of a page. -/
def irqStat (p : Page) (s : Block) : Word := tget zeroWord s.reg.irq (pageBase p)

/-- IRQ_STAT write: writing 1 clears a bit (R462). -/
def irqClear (p : Page) (w : Word) (s : Block) : Block :=
  { s with reg := { s.reg with irq := tmod zeroWord s.reg.irq (pageBase p) fun v => v &&& ~~~w } }

/-- Set a W1C bit of a page's STATUS. -/
def flagRaise (p : Page) (b : Nat) (s : Block) : Block :=
  { s with reg := { s.reg with flags := tmod zeroWord s.reg.flags (pageBase p) fun w => w ||| w32 (2 ^ b) } }

/-- W1C bits of a page's STATUS. -/
def flagWord (p : Page) (s : Block) : Word := tget zeroWord s.reg.flags (pageBase p)

/-- STATUS write: writing 1 clears a W1C bit (R12). -/
def flagClear (p : Page) (w : Word) (s : Block) : Block :=
  { s with reg := { s.reg with flags := tmod zeroWord s.reg.flags (pageBase p) fun v => v &&& ~~~w } }

/-- STATUS.BAD_PARAM of a page, where the page has one. -/
def badParam (p : Page) (s : Block) : Block :=
  match badBit p with
  | some b => flagRaise p b s
  | none => s

/-- Value of a saturating read-only counter. -/
def countOf (a : Nat) (s : Block) : Nat := tget (fun _ => 0) s.reg.counts a

/-- Add `n` to a saturating 32-bit read-only counter. -/
def countUp (a n : Nat) (s : Block) : Block :=
  { s with reg := { s.reg with counts := tmod (fun _ => 0) s.reg.counts a fun c => sat32 (c + n) } }

/-- Address of a register of a page. -/
def reg (p : Page) (off : Nat) : Nat := pageBase p + off

/-! Counters that raise an interrupt bit when they rise. -/

/-- REQ.BAD_CMDS and its interrupt (R254). -/
def badCmd (s : Block) : Block := irqRaise .req 1 (countUp (reg .req 0x0BC) 1 s)

/-- REQ.EVICTIONS and its interrupt (R272). -/
def evictionUp (s : Block) : Block := irqRaise .req 2 (countUp (reg .req 0x0C0) 1 s)

/-- REQ.STATUS.SPILL_FULL and its interrupt (R270). -/
def spillFull (s : Block) : Block := irqRaise .req 0 (flagRaise .req 1 s)

/-- MER.MISSED and its interrupt (R65). -/
def missedUp (n : Nat) (s : Block) : Block :=
  if n = 0 then s else irqRaise .mer 2 (countUp (reg .mer 0x090) n s)

/-- ARYn.REFETCH and its interrupt (R117). -/
def refetchUp (n : Nat) (s : Block) : Block := irqRaise (.ary n) 0 (countUp (reg (.ary n) 0x088) 1 s)

/-- ARYn.REPLAY and its interrupt (R117). -/
def replayUp (n : Nat) (s : Block) : Block := irqRaise (.ary n) 1 (countUp (reg (.ary n) 0x08C) 1 s)

/-- MEMn.CORRECTED, PAR_ERR and ERR_RSP with their interrupts (R362). -/
def correctedUp (n : Nat) (s : Block) : Block := irqRaise (.mem n) 2 (countUp (reg (.mem n) 0x08C) 1 s)
/-- MEMn.PAR_ERR by `k` beats. -/
def parErrUp (n k : Nat) (s : Block) : Block :=
  if k = 0 then s else irqRaise (.mem n) 0 (countUp (reg (.mem n) 0x090) k s)
/-- MEMn.ERR_RSP. -/
def errRspUp (n : Nat) (s : Block) : Block := irqRaise (.mem n) 1 (countUp (reg (.mem n) 0x094) 1 s)

/-! Interrupt outputs (R55, R304). -/

/-- IRQ_EN of a page as written. -/
def irqEn (p : Page) (s : Block) : Word := tget resetVal s.reg.written (reg p 0x014)

/-- IRQ_STAT AND IRQ_EN. -/
def irqPend (p : Page) (s : Block) : Bool := irqStat p s &&& irqEn p s ≠ 0

/-- Every block page (R460). -/
def blockPages : List Page :=
  [.glb, .clk, .pwr, .cfg, .mer, .sch, .req, .sfu, .sel, .smp, .spc, .xlt, .rdg, .mtr, .dbg,
   .ary 0, .ary 1, .ary 2, .ary 3, .mem 0, .mem 1, .mem 2, .mem 3]

/-- irq_block: high in CLOCK_HOLD, low before any clock is usable and during a block soft reset (R55, R385,
R435). -/
def irqBlock (s : Block) : Bool :=
  if s.pwr.rstLow then false
  else match s.pwr.src with
    | .start => false
    | .hold => true
    | _ => !s.resetting && blockPages.any fun p => irqPend p s

/-- GLB.TEN_PENDw (R304). -/
def tenPend (w : Nat) (s : Block) : Word :=
  w32 ((upto 32).foldl (fun acc t => acc + b2n (irqPend (.ten (32 * w + t)) s) * 2 ^ t) 0)

/-- irq_tenant (R55, R304). -/
def irqTenant (s : Block) : Bool := !s.pwr.rstLow && (upto 1024).any fun n => irqPend (.ten n) s

end Sys2Proof.Machine
end

