-- ==== Sys2Proof/Machine/Ops.lean ====
section
/-! DEFINITION. The operations over the block that more than one family of commands uses: register values,
pass contexts, entries and tenants, strobes, and the taking of a fatal fault, a tenant fault and an entry
fault. -/

namespace Sys2Proof.Machine

/-! ## How a command meets the state -/

/-- A command of the block: its effect, unless `test_mode` is high, where R60 leaves the behaviour of the
block undefined. -/
def mission (f : Block → Block) (s : State) : Host.Outcome State Fault Refusal :=
  if s.blk.testMode then .fault .testModeHigh else .next { s with blk := f s.blk }

/-- Apply `f` under a condition; an event whose condition does not hold changes nothing (log entry 6). -/
def onlyIf (c : Bool) (f : Block → Block) (s : Block) : Block := if c then f s else s

/-! ## Register values -/

/-- A register as written (R12, R15). -/
def wr (s : Block) (a : Nat) : Word := tget resetVal s.reg.written a

/-- A register as the block uses it now: the value in force for RW-step, the written value otherwise. -/
def rf (s : Block) (a : Nat) : Word :=
  if isStep a then tget resetVal s.reg.inForce a else tget resetVal s.reg.written a

/-- A register from a captured set (R62). -/
def rc (regs : Table Word) (a : Nat) : Word := tget resetVal regs a

/-- Store a register's written value. -/
def setWr (a : Nat) (w : Word) (s : Block) : Block :=
  { s with reg := { s.reg with written := tset resetVal s.reg.written a w } }

/-- A 48-bit address pair: low word at `a`, high word at `a + 4`. -/
def pairAt (rd : Nat → Word) (a : Nat) : Nat := (rd a).toNat + bits (rd (a + 4)) 15 0 * 2 ^ 32

/-! ## Pass contexts -/

/-- Context 0 or 1 (R24). -/
def ctxOf (s : Block) (i : Nat) : Option Ctx := if i = 0 then s.ctx0 else s.ctx1

/-- Replace a context. -/
def setCtx (i : Nat) (c : Option Ctx) (s : Block) : Block :=
  if i = 0 then { s with ctx0 := c } else { s with ctx1 := c }

/-- Both contexts with their index. -/
def ctxs (s : Block) : List (Nat × Ctx) :=
  (match s.ctx0 with | some c => [(0, c)] | none => []) ++
  (match s.ctx1 with | some c => [(1, c)] | none => [])

/-- The running pass with its context index. -/
def runCtx (s : Block) : Option (Nat × Ctx) :=
  match s.running with
  | some i => match ctxOf s i with
    | some c => some (i, c)
    | none => none
  | none => none

/-- Change a context in place. -/
def modCtx (i : Nat) (f : Ctx → Ctx) (s : Block) : Block :=
  match ctxOf s i with
  | some c => setCtx i (some (f c)) s
  | none => s

/-- Whether any pass is running or parked. -/
def anyPass (s : Block) : Bool := s.ctx0.isSome || s.ctx1.isSome

/-- Whether a pass is parked. -/
def anyParked (s : Block) : Bool := (ctxs s).any fun c => c.2.parked

/-- Whether a sharded pass is running or parked. -/
def anySharded (s : Block) : Bool := (ctxs s).any fun c => c.2.sharded

/-- A register for a transfer: as its pass captured it, or in force when no pass owns it (R62, R365). -/
def regFor (s : Block) (ctx : Option Nat) (a : Nat) : Word :=
  match ctx with
  | some i => match ctxOf s i with
    | some c => rc c.regs a
    | none => rf s a
  | none => rf s a

/-! ## Entries, directory and tenants -/

/-- Entry `i` of the request table. -/
def entryAt (s : Block) (i : Nat) : Entry := tget (fun _ => Entry.freed) s.entries i

/-- Replace an entry's block side. -/
def setEntry (i : Nat) (e : Entry) (s : Block) : Block :=
  { s with entries := tset (fun _ => Entry.freed) s.entries i e }

/-- Change an entry's block side. -/
def modEntry (i : Nat) (f : Entry → Entry) (s : Block) : Block := setEntry i (f (entryAt s i)) s

/-- Host word `k` (byte offset 4k) of entry `i`. -/
def hostWord (s : Block) (i k : Nat) : Word := tget zeroWord s.host (i * 128 + k)

/-- The 64 host words of an entry. -/
def hostWords (s : Block) (i : Nat) : List Word := (upto 64).map fun k => hostWord s i k

/-- Directory entry `d`. -/
def dirAt (s : Block) (d : Nat) : DirEntry := tget (fun _ => DirEntry.freed) s.dir d

/-- Replace a directory entry. -/
def setDir (d : Nat) (e : DirEntry) (s : Block) : Block :=
  { s with dir := tset (fun _ => DirEntry.freed) s.dir d e }

/-- Tenant `n`. -/
def tenantAt (s : Block) (n : Nat) : Tenant := tget (fun _ => Tenant.cold) s.tenants n

/-- Replace a tenant's state. -/
def setTenant (n : Nat) (t : Tenant) (s : Block) : Block :=
  { s with tenants := tset (fun _ => Tenant.cold) s.tenants n t }

/-- Change a tenant's state. -/
def modTenant (n : Nat) (f : Tenant → Tenant) (s : Block) : Block := setTenant n (f (tenantAt s n)) s

/-- Return pages to the pool (R264). -/
def freePages (ps : List Nat) (s : Block) : Block :=
  { s with used := s.used.filter fun p => !ps.contains p }

/-- Meridian period of a count under P (R403). -/
def periodOf (s : Block) (count : Nat) : Nat := count / (rf s (reg .mer 0x0A0)).toNat

/-- Current Meridian count; 0 while the block holds none (R49). -/
def curCount (s : Block) : Nat := s.count.getD 0

/-- Current Meridian period (R403). -/
def curPeriod (s : Block) : Nat := periodOf s (curCount s)

/-! ## Outputs and strobes -/

/-- Drive something on a port. -/
def emit (o : PortOut) (s : Block) : Block := { s with out := s.out ++ [o] }

/-- Leading items of the queue that one slot grants (R402). -/
def slotCount (s : Block) : Nat :=
  let r := wr s (reg .pwr 0x084)
  match s.pwr.ramp with
  | [] => 0
  | i :: _ =>
    let run := (s.pwr.ramp.takeWhile fun j => j.kind = i.kind).length
    if i.kind = 0 then 1 else if i.kind = 1 then min run (bits r 18 16) else min run (bits r 22 19)

/-- A ramp slot starts where items wait and none runs: what it grants is fixed now (R402). -/
def startSlot (s : Block) : Block :=
  if s.pwr.slot = 0 then { s with pwr := { s.pwr with slot := slotCount s } } else s

/-- Queue power-ups behind those that wait (R402). -/
def queueRamp (l : List RampItem) (s : Block) : Block :=
  startSlot { s with pwr := { s.pwr with ramp := s.pwr.ramp ++ l } }

/-- GATE.STATE of a page. -/
def gateOf (s : Block) (p : Page) : GateState :=
  match s.reg.gates.find? fun g => g.1 = pageBase p with
  | some g => g.2
  | none => .running

/-- Whether a page's clock is removed: GATED, or in its wake (R395, R396). -/
def gatedOut (s : Block) (p : Page) : Bool := gateOf s p = .gated || gateOf s p = .wakePending

/-- A register-port response with the parity of its data (R34, R35). -/
def rspOut (code : Nat) (data : Word) : PortOut := .rsp code data (wordPar data)

/-- The strobes COUNT_STROBE takes. -/
def isCount (e : Strobe) : Bool :=
  match e with
  | .count _ _ => true
  | _ => false

/-- Send a strobe toward the meter; with pg_mtr low, or the island isolated in OFF, it is lost (R58, R59, R401), and in
RETAIN no COUNT is sent (R432; DEDUCED, log entry 106). -/
def strobe (e : Strobe) (s : Block) : Block :=
  if s.pwr.pgMtr && s.pwr.state ≠ .offReady && !(isCount e && s.pwr.state = .retain) then { s with strobes := s.strobes ++ [e] } else s

/-! ## Fault taking -/

/-- A fatal fault (R377): the first is recorded and OPEN_DROP sent (R421); every pass is lost, no new access
is issued, translation faults and the fault queue are discarded, a load in progress ends with LOAD_ERR
(R443), and an open watchdog window fires (R450). -/
def fatal (code addr : Nat) (s : Block) : Block :=
  if s.fault then s
  else
    let s := strobe .openDrop s
    let s := irqRaise .glb 0 { s with fault := true, faultCode := code, faultAddr := addr }
    let s := { s with ctx0 := none, ctx1 := none, running := none, forming := none,
                      mem := { s.mem with xfers := [], walks := [], fqueue := [], fqWait := [], xltHeld := [],
                                          done := [] } }
    let s := if s.cfg.loadBusy then flagRaise .cfg 8 { s with cfg := { s.cfg with loadBusy := false } } else s
    if s.cfg.wdOpen then
      flagRaise .cfg 5 { s with cfg := { s.cfg with wdRollback := true } }
    else s

/-- A tenant fault (R297, R299): the first one since a clear stands in FAULT_CODE and FAULT_ADDR, later ones count in
FAULT_MORE; one raised while a FAULT_CLEAR waits is kept to stand after the boundary. The first one since the last clear
raises the interrupt (R303; DEDUCED, log entry 24). -/
def tenantFault (n code addr : Nat) (s : Block) : Block :=
  let t := tenantAt s n
  let first := t.faultCode = 0 || (t.clearPend && t.sinceN = 0)
  let t := if t.clearPend then
      (if t.sinceN = 0 then { t with sinceCode := code, sinceAddr := addr, sinceN := 1 }
       else { t with sinceN := t.sinceN + 1 })
    else t
  let s := if first then irqRaise (.ten n) 0 s else s
  setTenant n (if t.faultCode = 0 then { t with faultCode := code, faultAddr := addr }
    else { t with faultMore := sat32 (t.faultMore + 1) }) s

/-- Whether a tenant is in fault (R298). -/
def inFault (s : Block) (n : Nat) : Bool := (tenantAt s n).faultCode ≠ 0

/-- An entry fault: ENTRY_FAULTS rises and the tenant's interrupt with it (R297); the entry takes FAULT and
the code (R258). -/
def entryFault (i code : Nat) (s : Block) : Block :=
  let e := entryAt s i
  let s := setEntry i { e with state := .fault, efault := code } s
  irqRaise (.ten e.tenant) 3
    (modTenant e.tenant (fun t => { t with entryFaults := sat32 (t.entryFaults + 1) }) s)

/-! Tenant fault codes of R297. -/
/-- RING_OVERFLOW. -/
def tfRing : Nat := 1
/-- WRITE_FAILED. -/
def tfWrite : Nat := 2
/-- ADAPTER_READ. -/
def tfAdapter : Nat := 3
/-- READ_FAILED. -/
def tfRead : Nat := 4
/-- REGION. -/
def tfRegion : Nat := 5

/-! Entry fault codes of R258. -/
/-- ADMIT_INVALID. -/
def efAdmit : Nat := 0x01
/-- ROWS_LIMIT. -/
def efRows : Nat := 0x02
/-- ADAPTER_INVALID. -/
def efAdapter : Nat := 0x03
/-- SCORING_INVALID. -/
def efScoring : Nat := 0x04
/-- SAMPLING_INVALID. -/
def efSampling : Nat := 0x05
/-- DRAFT_INVALID. -/
def efDraft : Nat := 0x06
/-- OUTPUT_INVALID. -/
def efOutput : Nat := 0x07
/-- HISTORY_BAD. -/
def efHistory : Nat := 0x08
/-- ALL_MASKED. -/
def efMasked : Nat := 0x09
/-- IMPORT_BAD. -/
def efImport : Nat := 0x0A
/-- MEMORY_LIMIT. -/
def efPages : Nat := 0x0B
/-- MEMORY. -/
def efMemory : Nat := 0x0C

/-! ## Configuration banks (R445, R447) -/

/-- Words of physical bank `b`. -/
def bankWords (s : Block) (b : Nat) : Table Word := if b = 0 then s.stores.bank0 else s.stores.bank1

/-- Word at byte offset `off` of bank `b`. -/
def bankWord (s : Block) (b off : Nat) : Word := tget zeroWord (bankWords s b) (off / 4)

/-- Byte string of a bank. -/
def bankBytes (s : Block) (b off n : Nat) : List Byte :=
  let w0 := off / 4
  slice (storeBytes (bankWords s b) w0 ((off % 4 + n + 3) / 4)) (off % 4) n

/-- SHARDS of a bank (R305). -/
def shardsOf (s : Block) (b : Nat) : Nat := bits (bankWord s b 0x80) 15 8 + 1

/-- SHARD of a bank. -/
def shardOf (s : Block) (b : Nat) : Nat := bits (bankWord s b 0x80) 7 0

/-- Whether the acting Summit is this block: the lowest shard not missing (R337). -/
def isSummit (s : Block) (b : Nat) : Bool :=
  (upto (shardOf s b)).all fun i => s.rdg.missing.contains i

/-- Whether a Ridge message is expected: a sharded pass is held (R395, R399). -/
def ridgeExpected (s : Block) : Bool := anySharded s

/-- Whether any port access is outstanding or waiting. -/
def portBusy (s : Block) : Bool := !s.mem.access.isEmpty || !s.mem.xfers.isEmpty

end Sys2Proof.Machine
end

