-- ==== Sys2Proof/Machine/Score.lean ====
section
/-! DEFINITION. What a select lane does to a score (R152 to R159, R166 to R173): entry, guidance, temperature,
penalties, bias and class mask, with the layout automaton and the history slots they read (R161 to R164). -/

namespace Sys2Proof.Machine

/-! ## History slots (R161, R162, R208) -/

/-- Count change of one LIST entry: add one, inserting at its place (R162). -/
def listAdd (t : Nat) : List (Nat × Nat) → List (Nat × Nat)
  | [] => [(t, 1)]
  | (g, c) :: l => if t < g then (t, 1) :: (g, c) :: l
                   else if t = g then (g, c + 1) :: l
                   else (g, c) :: listAdd t l

/-- Count change of one LIST entry: drop one, removing at 0 (R162). -/
def listDrop (t : Nat) : List (Nat × Nat) → List (Nat × Nat)
  | [] => []
  | (g, c) :: l => if t = g then (if c ≤ 1 then l else (g, c - 1) :: l) else (g, c) :: listDrop t l

/-- Append a token to a history slot (R162). -/
def histAppend (h : Hist) (t : Nat) : Hist :=
  match h with
  | .seq w fill head total ring list =>
    let total := sat32 (total + 1)
    if w = 0 then .seq w fill head total ring list
    else
      let oldest := (head + w - fill % w) % w
      let full := fill = w
      let list := if full then listDrop (tget (fun _ => 0) ring oldest) list else list
      let fill := if full then fill - 1 else fill
      .seq w (fill + 1) ((head + 1) % w) total (tset (fun _ => 0) ring head t) (listAdd t list)
  | h => h

/-- Append tokens in order. -/
def histAppendAll (h : Hist) (ts : List Nat) : Hist := ts.foldl histAppend h

/-- The history view of a row: index and count (R162). -/
def histView (h : Hist) : List (Nat × Nat) :=
  match h with
  | .seq _ _ _ _ _ list => list
  | _ => []

/-- A slot with its HCRC put in (R161, R208). -/
def histSeal (head body : List Byte) : List Byte :=
  head ++ leBytes 4 (crc32 (head ++ body)).toNat ++ body

/-- The 1,536 bytes of a history slot (R161, R208). -/
def histImage (h : Hist) : List Byte :=
  match h with
  | .seq w fill head total ring list =>
    histSeal (leBytes 1 w ++ leBytes 1 fill ++ leBytes 1 head ++ leBytes 1 list.length ++ leBytes 4 total ++
        zeros 20)
      ((upto 192).flatMap (fun i => leBytes 3 (tget (fun _ => 0) ring i)) ++
       slice (list.flatMap fun e => leBytes 4 (e.1 + e.2 * 2 ^ 22)) 0 768 ++ zeros 160)
  | .refine p t i u done =>
    histSeal (leBytes 2 p ++ leBytes 2 t ++ leBytes 2 i ++ leBytes 2 u ++ zeros 20)
      (leBytes 1024 (done.foldl (fun n b => n + 2 ^ b) 0) ++ zeros 480)

/-- The distinct-token list that a run of ring entries gives. -/
def listOf (ts : List Nat) : List (Nat × Nat) := ts.foldl (fun l t => listAdd t l) []

/-- Whether the HCRC of an image is right. -/
def hcrcOk (bs : List Byte) : Bool :=
  (crc32 (slice bs 0 28 ++ slice bs 32 1504)).toNat = numAt bs 28 4

/-- Ring tokens and list words of a sequential image (R161). -/
def imageRing (bs : List Byte) : List Nat := (upto 192).map fun i => numAt bs (32 + 3 * i) 3
/-- List words of a sequential image (R161). -/
def imageList (bs : List Byte) : List Nat := (upto 192).map fun i => numAt bs (608 + 4 * i) 4

/-- The slot a sequential image spells (R161). -/
def histOfSeq (bs : List Byte) : Hist :=
  .seq (numAt bs 0 1) (numAt bs 1 1) (numAt bs 2 1) (numAt bs 4 4)
    ((upto 192).foldl (fun m i => tset (fun _ => 0) m i ((imageRing bs).getD i 0)) [])
    (((imageList bs).take (numAt bs 3 1)).map fun n => (n % 2 ^ 22, n / 2 ^ 22))

/-- A sequential history image checked under R164; none when it fails. -/
def histLoadSeq (bs : List Byte) : Option Hist :=
  let w := numAt bs 0 1
  let fill := numAt bs 1 1
  let head := numAt bs 2 1
  let dc := numAt bs 3 1
  let ring := imageRing bs
  let list := imageList bs
  let used := (upto fill).map fun i => ring.getD ((head + w - fill + i) % w) 0
  let pairs := (list.take dc).map fun n => (n % 2 ^ 22, n / 2 ^ 22)
  let ok := hcrcOk bs && decide (w ≤ 192) && decide (fill ≤ w) &&
    (if w = 0 then fill = 0 && head = 0 else decide (head < w)) && decide (dc ≤ fill) &&
    allZero (slice bs 8 20) && allZero (slice bs 1376 160) && ring.all (fun t => decide (t < 2 ^ 22)) &&
    list.all (fun n => decide (n < 2 ^ 30)) && (list.drop dc).all (fun n => n = 0) && pairs = listOf used
  if ok then some (histOfSeq bs) else none

/-- The pass state a refine image spells (R208). -/
def histOfRefine (bs : List Byte) : Hist :=
  let d := numAt bs 32 1024
  .refine (numAt bs 0 2) (numAt bs 2 2) (numAt bs 4 2) (numAt bs 6 2)
    ((upto (numAt bs 0 2)).filter fun k => d.testBit k)

/-- A refine pass-state image checked under R209; none when it fails. -/
def histLoadRefine (refP refT : Nat) (bs : List Byte) : Option Hist :=
  let p := numAt bs 0 2
  let d := numAt bs 32 1024
  let done := (upto p).filter fun k => d.testBit k
  if hcrcOk bs && p = refP && numAt bs 2 2 = refT && decide (numAt bs 4 2 < numAt bs 2 2) &&
      decide (d < 2 ^ p) && numAt bs 6 2 + done.length = p then some (histOfRefine bs)
  else none

/-! ## Classes and the automaton (R167 to R173) -/

/-- Whether local column `v` belongs to class `c` in epoch `ep` of the bitmaps (R167, R176). -/
def inClass (st : Stores) (ep c v : Nat) : Bool :=
  let byte := ep * 0x200000 + c * 0x8000 + v / 8
  (tget zeroWord st.bitmaps (byte / 4)).toNat.testBit (8 * (byte % 4) + v % 8)

/-- Transition class of local column `v`: the lowest class that holds it (R168). -/
def classOf (st : Stores) (ep v : Nat) : Option Nat := (upto 64).find? fun c => inClass st ep c v

/-- Whether a column is allowed by a set of classes (R169). -/
def allowedBy (st : Stores) (ep set v : Nat) : Bool :=
  (upto 64).any fun c => set.testBit c && inClass st ep c v

/-- Bytes of an automaton state (R171, R176). -/
def autoBytes (st : Stores) (ep tbl state off n : Nat) : List Byte :=
  let a := ep * 0x80000 + tbl * 0x8000 + state * 0x80 + off
  slice (storeBytes st.automata (a / 4) ((a % 4 + n + 3) / 4)) (a % 4) n

/-- The automaton set of a state and position (R172). -/
def autoSet (st : Stores) (ep tbl : Nat) (m : MaskSt) : Nat :=
  leNat (autoBytes st ep tbl m.state (if m.y = m.yh then 16 else if m.x = m.xw then 8 else 0) 8)

/-- Move the automaton on a token's transition class (R173). -/
def autoMove (st : Stores) (ep tbl : Nat) (m : MaskSt) : Option Nat → MaskSt
  | none => m
  | some c =>
    let nxt := leNat (autoBytes st ep tbl m.state (24 + c) 1)
    let act := leNat (autoBytes st ep tbl m.state (88 + c / 4) 1) / 4 ^ (c % 4) % 4
    let m := { m with state := nxt }
    match act with
    | 0 => m
    | 1 => { m with x := (m.x + 1) % 65536 }
    | 2 => { m with y := (m.y + 1) % 65536, x := 0 }
    | _ => { m with t := (m.t + 1) % 65536, y := 0, x := 0 }

/-! ## The lane (R152, R153) -/

/-- A score with the NaN replacements and saturations counted so far (R153, R181). -/
structure Lane where
  x   : Word
  nan : Nat
  sat : Nat
  deriving DecidableEq, Repr

/-- A score entering the transforms (R153). -/
def laneEntry (raw : Word) : Lane :=
  if fisNan raw then ⟨negInf, 1, 0⟩
  else if raw = 0x7F800000 then ⟨maxFin, 0, 1⟩
  else ⟨raw, 0, 0⟩

/-- sat of R153 on the result of an operation on finite operands. -/
def laneSat (l : Lane) (x : Word) : Lane :=
  if fisInf x then { l with x := if bit x 31 then maxFin ||| 0x80000000 else maxFin, sat := l.sat + 1 }
  else { l with x := x }

/-- Penalty values of a set (R160). -/
structure PenSet where
  repPos : Word
  repNeg : Word
  freq   : Word
  pres   : Word
  deriving DecidableEq, Repr

/-- What a row's transforms read. -/
structure RowScore where
  /-- Prompt-chunk rows take raw scores (R152). -/
  rawOnly : Bool
  guideS  : Word
  invTemp : Option Word
  pen     : Option PenSet
  view    : List (Nat × Nat)
  /-- Bias entries in ascending index; none when BIAS_EN is 0. -/
  bias    : Option (List (Nat × Word))
  /-- Allowed class set; none when MASK_EN is 0. -/
  allow   : Option Nat
  maskEp  : Nat
  vocBase : Nat
  deriving DecidableEq, Repr

/-- Guidance (R157). -/
def laneGuide (s : Word) (c u : Lane) : Lane :=
  let l : Lane := ⟨negInf, c.nan + u.nan, c.sat + u.sat⟩
  if c.x = negInf || u.x = negInf then l
  else
    let d := laneSat l (fsub c.x u.x)
    let m := laneSat d (fmul s d.x)
    laneSat m (fadd u.x m.x)

/-- Temperature (R158). -/
def laneTemp (it : Option Word) (l : Lane) : Lane :=
  match it with
  | some w => if l.x = negInf then l else laneSat l (fmul l.x w)
  | none => l

/-- Penalties for a column that occurs `c` times (R159). -/
def lanePen (p : PenSet) (c : Nat) (l : Lane) : Lane :=
  if l.x = negInf || c = 0 then l
  else
    let l := laneSat l (fmul l.x (if fkey l.x ≥ 0 then p.repPos else p.repNeg))
    let f := laneSat { l with x := 0 } (fmul p.freq (fofNat c))
    let l := laneSat { l with sat := f.sat } (fsub l.x f.x)
    laneSat l (fsub l.x p.pres)

/-- Bias (R166). -/
def laneBias (b : Option Word) (l : Lane) : Lane :=
  match b with
  | none => l
  | some b => if l.x = negInf then l
              else if b = negInf then { l with x := negInf }
              else laneSat l (fadd l.x b)

/-- The whole lane for local column `v` (R152): `rawU` is the unconditional score of a guidance pair. -/
def laneScore (st : Stores) (r : RowScore) (v : Nat) (raw : Word) (rawU : Option Word) : Lane :=
  let l := laneEntry raw
  if r.rawOnly then l
  else
    let gv := r.vocBase + v
    let l := match rawU with
      | some u => laneGuide r.guideS l (laneEntry u)
      | none => l
    let l := laneTemp r.invTemp l
    let l := match r.pen with
      | some p => lanePen p (match r.view.find? fun e => e.1 = gv with | some e => e.2 | none => 0) l
      | none => l
    let l := match r.bias with
      | some t => laneBias (match t.find? fun e => e.1 = gv with | some e => some e.2 | none => none) l
      | none => l
    match r.allow with
    | some set => if allowedBy st r.maskEp set v then l else { l with x := negInf }
    | none => l

/-! ## Table items (R160, R166, R179) -/

/-- Word `w` of item `i` in epoch `ep` of the penalty store (R176). -/
def penWord (st : Stores) (ep i w : Nat) : Word := tget zeroWord st.penalty (ep * 0x800 + i * 8 + w)

/-- Penalty set `i` (R160). -/
def penSet (st : Stores) (ep i : Nat) : PenSet :=
  ⟨penWord st ep i 0, penWord st ep i 1, penWord st ep i 2, penWord st ep i 3⟩

/-- The set check of R179. -/
def penOk (st : Stores) (ep i : Nat) : Bool :=
  let p := penSet st ep i
  fpos p.repPos && fpos p.repNeg && ffinite p.freq && ffinite p.pres

/-- Entry `k` of bias table `i` in epoch `ep` (R166, R176): index word and bias. -/
def biasEntry (st : Stores) (ep i k : Nat) : Word × Word :=
  let a := ep * 0x20000 + i * 0x1000 + 2 * k
  (tget zeroWord st.bias a, tget zeroWord st.bias (a + 1))

/-- The list of a bias table: entries up to the first with VALID at 0 (R166). -/
def biasList (st : Stores) (ep i : Nat) : Nat → Nat → List (Nat × Word)
  | 0, _ => []
  | n + 1, k =>
    let e := biasEntry st ep i k
    if bit e.1 31 then (bits e.1 21 0, e.2) :: biasList st ep i n (k + 1) else []

/-- First failing entry of a bias table, or none (R179): the valid entries are those before the first one with VALID 0, where the
list ends (DEDUCED, log entry 151). -/
def biasFail (st : Stores) (ep i : Nat) : Option Nat :=
  let l := biasList st ep i 2048 0
  (upto l.length).find? fun k =>
    let e := l.getD k (0, 0)
    let order := if k = 0 then true else decide ((l.getD (k - 1) (0, 0)).1 < e.1)
    !(order && (ffinite e.2 || e.2 = negInf))

/-- REFUSE_INDEX of a failing bias store: table × 2,048 + entry (R179). -/
def biasCheck (st : Stores) (ep : Nat) : Option Nat :=
  (upto 32).findSome? fun i => match biasFail st ep i with
    | some k => some (i * 2048 + k)
    | none => none

/-- REFUSE_INDEX of a failing penalty store (R179). -/
def penCheck (st : Stores) (ep : Nat) : Option Nat := (upto 256).find? fun i => !penOk st ep i

end Sys2Proof.Machine
end

