-- ==== Sys2Proof/Machine/Select.lean ====
section
/-! DEFINITION. Selection and sampling of a row (R185 to R206, R210, R211) and draft verification (R225 to
R228): the heap, the log-sum-exp, the noise, the decision, the residual and the governor (R233). -/

namespace Sys2Proof.Machine

/-! ## Rank order and the heap (R185, R186) -/

/-- Whether candidate `a` ranks before `b` (R185): score first, then lower index. -/
def ranksBefore (a b : Word × Nat) : Bool :=
  decide (fkey b.1 < fkey a.1) || (fkey a.1 = fkey b.1 && decide (a.2 < b.2))

/-- Insert at the place the rank order gives. -/
def rankInsert (c : Word × Nat) : List (Word × Nat) → List (Word × Nat)
  | [] => [c]
  | d :: l => if ranksBefore c d then c :: d :: l else d :: rankInsert c l

/-- Sort candidates in rank order. -/
def rankSort (l : List (Word × Nat)) : List (Word × Nat) := l.foldl (fun acc c => rankInsert c acc) []

/-- The heap of R186 taking a score: `k` is its size. -/
def heapTake (k : Nat) (heap : List (Word × Nat)) (x : Word) (v : Nat) : List (Word × Nat) :=
  if heap.length < k then rankInsert (x, v) heap
  else match heap.getLast? with
    | some th => if fkey th.1 < fkey x then rankInsert (x, v) heap.dropLast else heap
    | none => heap

/-- Merge two lists in rank order, keeping the first `k` (R203). -/
def rankMerge (k : Nat) (a b : List (Word × Nat)) : List (Word × Nat) :=
  (b.foldl (fun acc c => rankInsert c acc) a).take k

/-! ## Log-sum-exp (R189 to R191) -/

/-- e(x, r) of R189. -/
def expE (compat : Bool) (x r : Word) : Word :=
  if x = negInf then 0 else exp2F compat (fmul (fsub x r) l2e)

/-- The larger of two scores as numbers; the first on a tie, of two zeros of different sign too (DEDUCED, log entry 136). -/
def fmax (a b : Word) : Word := if fkey a < fkey b then b else a

/-- Fold of two pairs (R189). -/
def foldPair (compat : Bool) (p q : Word × Word) : Word × Word :=
  if q.1 = negInf then p
  else if p.1 = negInf then q
  else
    let m2 := fmax p.1 q.1
    (m2, fadd (fmul p.2 (expE compat p.1 m2)) (fmul q.2 (expE compat q.1 m2)))

/-- Sum of a block's terms over groups of eight (R189). -/
def blockSum (compat : Bool) (mb : Word) : Nat → List Word → Word → Word
  | 0, _, sb => sb
  | n + 1, xs, sb =>
    blockSum compat mb n (xs.drop 8) (fadd sb (tree8 ((xs.take 8).map fun x => expE compat x mb)))

/-- The pair of one delivery block whose columns beyond VOCAB stand as −inf. -/
def blockPair (compat : Bool) (xs : List Word) : Word × Word :=
  match xs.filter fun x => x ≠ negInf with
  | [] => (negInf, 0)
  | y :: ys =>
    let mb := ys.foldl fmax y
    (mb, blockSum compat mb (xs.length / 8) xs 0)

/-- L of R190; none for a row with no finite score. -/
def logNorm (compat : Bool) (m s : Word) : Option Word :=
  if m = negInf then none else some (fadd m (fmul (log2F compat s) ln2))

/-- P(x) of R190. -/
def probOf (compat : Bool) (l x : Word) : Word := expE compat x l

/-- Log-probability of R191 as FP16: −inf for a score captured as −inf. -/
def logpOf (x l : Word) : Nat := if x = negInf then infCode fp16 + 2 ^ 15 else logp16 (fsub x l)

/-! ## Noise (R192 to R198) -/

/-- Rotate left. -/
def rotl (x : Word) (n : Nat) : Word := (x <<< n) ||| (x >>> (32 - n))

/-- One round of the permutation (R193). -/
def permRound (k : Nat → Word) (r : Nat) (x : Word × Word × Word × Word) : Word × Word × Word × Word :=
  let gc : Word := [0x9E3779B9, 0x3C6EF372, 0xDAA66D2B, 0x78DDE6E4].getD r 0
  let x0 := x.1
  let x1 := x.2.1
  let x2 := x.2.2.1
  let x3 := x.2.2.2
  let x0 := x0 + x1
  let x1 := rotl x1 7 ^^^ x0
  let x2 := x2 + x3
  let x3 := rotl x3 16 ^^^ x2
  let x0 := x0 + x3
  let x3 := rotl x3 11 ^^^ x0
  let x2 := x2 + x1
  let x1 := rotl x1 17 ^^^ x2
  (x0 + k ((r + 1) % 4), x1, x2 ^^^ gc, x3)

/-- The permutation of R193. -/
def permute (c k : Nat → Word) : Word × Word × Word × Word :=
  let x := (c 0 ^^^ k 0, c 1 ^^^ k 1, c 2 ^^^ k 2, c 3 ^^^ k 3)
  permRound k 3 (permRound k 2 (permRound k 1 (permRound k 0 x)))

/-- What a row's draws read: key, counter words c0 to c2, mode of the functions, and the noise hook. -/
structure NoiseSrc where
  key    : List Word
  c0     : Word
  c1     : Word
  c2     : Word
  compat : Bool
  /-- Micro-program store of the captured epoch where it enables the noise hook (R139, R143). -/
  hook   : Option (Table Word × Nat)
  deriving DecidableEq, Repr

/-- Draw word of draw index `c3` (R194). -/
def drawWord (n : NoiseSrc) (c3 : Nat) : Word :=
  (permute (fun i => [n.c0, n.c1, n.c2, w32 c3].getD i 0) (fun i => n.key.getD i 0)).1

/-- Noise of a draw index; the flag says that a NaN of the hook was replaced by −inf (R194). -/
def noiseOf (n : NoiseSrc) (c3 : Nat) : Word × Bool :=
  let w := drawWord n c3
  match n.hook with
  | some (t, base) =>
    let g := noiseHook n.compat (fun k => tget zeroWord t (base + k)) w
    if fisNan g then (negInf, true) else (g, false)
  | none => (gumbelBuiltIn n.compat w, false)

/-- y = sat(x + g) of R198: −inf noise keeps the column out. -/
def noisy (x g : Word) : Word × Bool :=
  if g = negInf then (negInf, false)
  else
    let y := fadd x g
    if fisInf y then (if bit y 31 then maxFin ||| 0x80000000 else maxFin, true) else (y, false)

/-- Running best: y, index, score; greater y wins, equal y the lower index; −inf never does. -/
def bestTake (b : Option (Word × Nat × Word)) (y : Word) (gv : Nat) (x : Word) : Option (Word × Nat × Word) :=
  if y = negInf then b
  else match b with
    | none => some (y, gv, x)
    | some (by_, bg, bx) =>
      if fkey by_ < fkey y || (fkey by_ = fkey y && gv < bg) then some (y, gv, x) else some (by_, bg, bx)

/-- The sampled column of a list of candidates under draws from `base`, with NaN and saturation counts. -/
def bestOf (n : NoiseSrc) (base : Nat) (cs : List (Word × Nat)) : Option (Word × Nat × Word) × Nat × Nat :=
  cs.foldl (fun acc c =>
    let g := noiseOf n (base + c.2)
    let y := noisy c.1 g.1
    (bestTake acc.1 y.1 c.2 c.1, acc.2.1 + b2n g.2, acc.2.2 + b2n y.2)) (none, 0, 0)

/-! ## Decision (R197 to R201, R204) -/

/-- Sampling fields of a row (R182). -/
structure Sampling where
  greedy : Bool
  k      : Nat
  topK   : Nat
  topP   : Option Word
  minP   : Option Word
  deriving DecidableEq, Repr

/-- Whether no cut-off is on (R198). -/
def freeKind (p : Sampling) : Bool := !p.greedy && p.topK = 0 && p.topP.isNone && p.minP.isNone

/-- State of the walk of R199: how many were walked, the sum, the candidates walked, and the cut once it
stopped. -/
structure WalkSt where
  i    : Nat
  cum  : Word
  set  : List (Word × Nat)
  stop : Option Nat
  deriving DecidableEq, Repr

/-- The min-p threshold from the first candidate (R199). -/
def minThr (compat : Bool) (p : Sampling) (x0 : Word) : Word :=
  match p.minP with
  | some m => fadd x0 (fmul (log2F compat m) ln2)
  | none => negInf

/-- Walk candidates in rank order (R199); `set` collects them last first. -/
def walkOn (compat : Bool) (p : Sampling) (thr l : Word) : List (Word × Nat) → WalkSt → WalkSt
  | [], w => w
  | c :: cs, w =>
    match w.stop with
    | some _ => w
    | none =>
      if p.topK ≠ 0 && w.i = p.topK then { w with stop := some w.i }
      else if flt c.1 thr then { w with stop := some w.i }
      else
        let cum := fadd w.cum (probOf compat l c.1)
        let w' : WalkSt := { i := w.i + 1, cum := cum, set := c :: w.set, stop := none }
        match p.topP with
        | some tp => if fle tp cum then { w' with stop := some (w.i + 1) } else walkOn compat p thr l cs w'
        | none => walkOn compat p thr l cs w'

/-- What a decision needs of a row beside its fields: the first K in rank order, how many finite columns it
has, every finite candidate in rank order for the rescan, L, and the free-sampling maximum (index global). -/
structure RowView where
  top   : List (Word × Nat)
  nfin  : Nat
  all   : List (Word × Nat)
  l     : Word
  best  : Option (Word × Nat × Word)
  deriving DecidableEq, Repr

/-- A decision with the noise counts of its draws: NaN replacements and saturations. -/
structure Decided where
  dec  : Dec
  nan  : Nat
  sat  : Nat
  deriving DecidableEq, Repr

/-- The end of a row's list of K candidates (R199, R203): a list that a group kept at TOP_K entries (R320) stops where the
next candidate of that list would stop it. -/
def listEnd (p : Sampling) (nfin : Nat) (w : WalkSt) : WalkSt :=
  if w.stop.isNone && p.topK ≠ 0 && w.i = p.topK && decide (w.i < min p.k nfin) then { w with stop := some w.i } else w

/-- The decision of a row that holds at least one finite column (R197 to R201, R204, R206). -/
def decideRow (compat : Bool) (p : Sampling) (n : NoiseSrc) (v : RowView) : Decided :=
  let c0 := v.top.headD (negInf, 0)
  if p.greedy then
    ⟨{ gv := c0.2, x := c0.1, l := v.l, cut := 0, z := fone, overflow := false, set := [c0] }, 0, 0⟩
  else if freeKind p then
    let b := match v.best with
      | some b => (b.2.1, b.2.2)
      | none => (c0.2, c0.1)
    ⟨{ gv := b.1, x := b.2, l := v.l, cut := 0, z := fone, overflow := false, set := [] }, 0, 0⟩
  else
    let thr := minThr compat p c0.1
    let w0 := listEnd p v.nfin (walkOn compat p thr v.l v.top { i := 0, cum := 0, set := [], stop := none })
    let wide := w0.stop.isNone && decide (v.top.length < v.nfin)
    let w := if wide then walkOn compat p thr v.l (v.all.drop v.top.length) w0 else w0
    let cut := w.stop.getD w.i
    let set := w.set.reverse
    let b := bestOf n 0 set
    let s := match b.1 with
      | some b => (b.2.1, b.2.2)
      | none => (c0.2, c0.1)
    ⟨{ gv := s.1, x := s.2, l := v.l, cut := cut, z := w.cum, overflow := wide, set := set }, b.2.1, b.2.2⟩

/-! ## Verification (R225 to R227) -/

/-- Probability of a token in a draft list. -/
def listQ (l : List (Nat × Word)) (t : Nat) : Option Word :=
  match l.find? fun e => e.1 = t with
  | some e => some e.2
  | none => none

/-- The acceptance test (R225): `xt` the captured score of the draft. -/
def acceptDraft (compat : Bool) (p : Sampling) (n : NoiseSrc) (d : Dec) (t : Nat) (q xt : Word) : Bool :=
  let u := uniformOf (drawWord n 0x80000000)
  if p.greedy then t = d.gv
  else if freeKind p then xt ≠ negInf && fle (fmul u q) (probOf compat d.l xt)
  else d.set.any (fun c => c.2 = t) && fle (fmul (fmul u q) d.z) (probOf compat d.l xt)

/-- Residual score of a column (R226); none when it is excluded. -/
def residScore (compat : Bool) (l z : Word) (list : List (Nat × Word)) (x : Word) (gv : Nat) : Option Word :=
  match listQ list gv with
  | none => some x
  | some q =>
    let e := fsub (probOf compat l x) (fmul z q)
    if fkey e > 0 then some (fadd l (fmul (log2F compat e) ln2)) else none

/-- The replacement of a rejected draft over a domain in rank order (R226), with noise counts. -/
def residualOf (compat : Bool) (p : Sampling) (n : NoiseSrc) (d : Dec) (list : List (Nat × Word))
    (domain : List (Word × Nat)) : Nat × Nat × Nat :=
  if p.greedy then (d.gv, 0, 0)
  else
    let rs := domain.filterMap fun c => match residScore compat d.l d.z list c.1 c.2 with
      | some x => some (x, c.2)
      | none => none
    let b := bestOf n 0x40000000 rs
    match b.1 with
    | some b' => (b'.2.1, b.2.1, b.2.2)
    | none =>
      match (bestOf n 0x40000000 domain).1 with
      | some b' => (b'.2.1, b.2.1, b.2.2)
      | none => ((domain.headD (0, d.gv)).2, b.2.1, b.2.2)

/-! ## Governor (R232, R233) -/

/-- A governor table (R232). -/
structure GovTab where
  dMin  : Nat
  dMax  : Nat
  upRun : Nat
  susp  : Nat
  probe : Nat
  depth : Nat
  drop  : List Nat
  deriving DecidableEq, Repr

/-- The governor's update at a commit (R233); every count saturates at its width. -/
def govStep (tb : GovTab) (specEn : Bool) (st : Gov) (dStep ds a : Nat) : Gov :=
  if !specEn then st
  else if st.susp then
    if 0 < dStep then
      if 0 < a then { st with susp := false, depth := tb.dMin, zero := 0, full := 0 }
      else { st with depth := 0, wait := 0 }
    else
      let w := min 255 (st.wait + 1)
      { st with wait := w, depth := if tb.probe ≤ w then tb.depth else st.depth }
  else if ds = 0 then st
  else
    let zr := if a = 0 then min 255 (st.zero + 1) else 0
    if 0 < tb.susp && tb.susp ≤ zr then { depth := 0, full := 0, zero := 0, susp := true, wait := 0 }
    else if a = ds && ds = st.depth then
      let full := min 63 (st.full + 1)
      if tb.upRun ≤ full then { st with zero := zr, depth := min tb.dMax (st.depth + 1), full := 0 }
      else { st with zero := zr, full := full }
    else
      { st with zero := zr, full := 0,
                depth := if a < ds then max tb.dMin (min st.depth (tb.drop.getD a 0)) else st.depth }

/-! ## Refine ranking (R211) -/

/-- Positions by confidence, highest first, ties to the lower position. -/
def confRank (cs : List (Word × Nat)) (k : Nat) : List Nat := ((rankSort cs).take k).map (·.2)

end Sys2Proof.Machine
end

