-- ==== Sys2Proof/Machine/Operands.lean ====
section
/-! DEFINITION. The operand forms of the commands: the fields of a request entry (R250), of a configuration
bank (R96, R305), of captured registers, and what a row of a pass reads from them. -/

namespace Sys2Proof.Machine

/-! ## Host region of an entry (R250) -/

/-- Word at byte offset `off` of a host region. -/
def hw (h : List Word) (off : Nat) : Word := h.getD (off / 4) 0

/-- A 48-bit address field at byte offset `off`. -/
def hAddr (h : List Word) (off : Nat) : Nat := (hw h off).toNat + bits (hw h (off + 4)) 15 0 * 2 ^ 32

/-- A 64-bit field at byte offset `off`. -/
def hNum64 (h : List Word) (off : Nat) : Nat := (hw h off).toNat + (hw h (off + 4)).toNat * 2 ^ 32

/-- TENANT. -/
def hTenant (h : List Word) : Nat := bits (hw h 0x004) 9 0
/-- MODE: refine. -/
def hRefine (h : List Word) : Bool := bit (hw h 0x004) 10
/-- GUIDE_EN. -/
def hGuideEn (h : List Word) : Bool := bit (hw h 0x004) 11
/-- TEMP_MODE. -/
def hTempMode (h : List Word) : Bool := bit (hw h 0x004) 12
/-- PEN_EN. -/
def hPenEn (h : List Word) : Bool := bit (hw h 0x004) 13
/-- BIAS_EN. -/
def hBiasEn (h : List Word) : Bool := bit (hw h 0x004) 14
/-- MASK_EN. -/
def hMaskEn (h : List Word) : Bool := bit (hw h 0x004) 15
/-- AUTO_EN. -/
def hAutoEn (h : List Word) : Bool := bit (hw h 0x004) 16
/-- TOP_P_EN. -/
def hTopPEn (h : List Word) : Bool := bit (hw h 0x004) 17
/-- MIN_P_EN. -/
def hMinPEn (h : List Word) : Bool := bit (hw h 0x004) 18
/-- SPEC_EN. -/
def hSpecEn (h : List Word) : Bool := bit (hw h 0x004) 19
/-- PCODE_EN. -/
def hPcodeEn (h : List Word) : Bool := bit (hw h 0x004) 20
/-- ADP_EN. -/
def hAdpEn (h : List Word) : Bool := bit (hw h 0x004) 21
/-- ADP_SLOT. -/
def hAdpSlot (h : List Word) : Nat := bits (hw h 0x004) 23 22
/-- RING. -/
def hRing (h : List Word) : Nat := bits (hw h 0x004) 25 24
/-- HIST_SRC. -/
def hHistSrc (h : List Word) : Nat := bits (hw h 0x004) 27 26
/-- DL_POLICY. -/
def hDlPolicy (h : List Word) : Nat := bits (hw h 0x004) 29 28
/-- PEN_SET. -/
def hPenSet (h : List Word) : Nat := bits (hw h 0x008) 7 0
/-- HIST_W. -/
def hHistW (h : List Word) : Nat := bits (hw h 0x008) 15 8
/-- BIAS_TBL. -/
def hBiasTbl (h : List Word) : Nat := bits (hw h 0x008) 20 16
/-- AUTO_TBL. -/
def hAutoTbl (h : List Word) : Nat := bits (hw h 0x008) 24 21
/-- PCODE_SET. -/
def hPcodeSet (h : List Word) : Nat := bits (hw h 0x008) 29 25
/-- AUTO_STATE0. -/
def hAutoState0 (h : List Word) : Nat := bits (hw h 0x00C) 7 0
/-- STOP_SET. -/
def hStopSet (h : List Word) : Nat := bits (hw h 0x00C) 15 8
/-- STOP_EN. -/
def hStopEn (h : List Word) : Nat := bits (hw h 0x00C) 23 16
/-- DEPTH_INIT. -/
def hDepthInit (h : List Word) : Nat := bits (hw h 0x00C) 28 24
/-- GOV_TBL. -/
def hGovTbl (h : List Word) : Nat := bits (hw h 0x00C) 31 29
/-- REQ_ID. -/
def hReqId (h : List Word) : Nat := (hw h 0x010).toNat
/-- PRIO. -/
def hPrio (h : List Word) : Nat := bits (hw h 0x014) 3 0
/-- COUNTER. -/
def hCounter (h : List Word) : Nat := bits (hw h 0x014) 31 16
/-- GUIDE_S. -/
def hGuideS (h : List Word) : Word := hw h 0x018
/-- INV_TEMP. -/
def hInvTemp (h : List Word) : Word := hw h 0x01C
/-- TOP_P. -/
def hTopP (h : List Word) : Word := hw h 0x020
/-- MIN_P. -/
def hMinP (h : List Word) : Word := hw h 0x024
/-- CAND_K. -/
def hCandK (h : List Word) : Nat := bits (hw h 0x028) 15 0
/-- TOP_K. -/
def hTopK (h : List Word) : Nat := bits (hw h 0x028) 31 16
/-- REF_P. -/
def hRefP (h : List Word) : Nat := bits (hw h 0x02C) 15 0
/-- REF_T. -/
def hRefT (h : List Word) : Nat := bits (hw h 0x02C) 31 16
/-- ALLOW. -/
def hAllow (h : List Word) : Nat := hNum64 h 0x030
/-- XW. -/
def hXW (h : List Word) : Nat := bits (hw h 0x038) 15 0
/-- YH. -/
def hYH (h : List Word) : Nat := bits (hw h 0x038) 31 16
/-- T0. -/
def hT0 (h : List Word) : Nat := bits (hw h 0x03C) 15 0
/-- Y0. -/
def hY0 (h : List Word) : Nat := bits (hw h 0x03C) 31 16
/-- X0. -/
def hX0 (h : List Word) : Nat := bits (hw h 0x040) 15 0
/-- HIST_LEN. -/
def hHistLen (h : List Word) : Nat := bits (hw h 0x040) 31 16
/-- LEN0. -/
def hLen0 (h : List Word) : Nat := (hw h 0x044).toNat
/-- MAX_NEW. -/
def hMaxNew (h : List Word) : Nat := (hw h 0x048).toNat
/-- MAX_LEN. -/
def hMaxLen (h : List Word) : Nat := (hw h 0x04C).toNat
/-- HIST_ADDR. -/
def hHistAddr (h : List Word) : Nat := hAddr h 0x050
/-- DRAFT_ADDR. -/
def hDraftAddr (h : List Word) : Nat := hAddr h 0x058
/-- PCODE_ADDR. -/
def hPcodeAddr (h : List Word) : Nat := hAddr h 0x060
/-- PLIST_ADDR. -/
def hPlistAddr (h : List Word) : Nat := hAddr h 0x068
/-- SREC_ADDR. -/
def hSrecAddr (h : List Word) : Nat := hAddr h 0x070
/-- XFER_ADDR. -/
def hXferAddr (h : List Word) : Nat := hAddr h 0x078
/-- DEADLINE. -/
def hDeadline (h : List Word) : Nat := hNum64 h 0x080
/-- TTL. -/
def hTtl (h : List Word) : Nat := (hw h 0x088).toNat
/-- PCHUNK_N. -/
def hPchunkN (h : List Word) : Nat := bits (hw h 0x08C) 9 0
/-- PCHUNK_ADDR. -/
def hPchunkAddr (h : List Word) : Nat := hAddr h 0x090
/-- PCHUNK_POS0. -/
def hPchunkPos0 (h : List Word) : Nat := (hw h 0x098).toNat
/-- CMD. -/
def hCmd (h : List Word) : Nat := bits (hw h 0x000) 3 0
/-- CMD_SEQ. -/
def hCmdSeq (h : List Word) : Nat := bits (hw h 0x000) 11 4

/-- The bits of host word `k` that R250 gives a field; the others are reserved and take no value (R12). -/
def hostMask (k : Nat) : Word :=
  match k with
  | 0x00 => 0x00000FFF
  | 0x01 => 0x3FFFFFFF
  | 0x02 => 0x3FFFFFFF
  | 0x05 => 0xFFFF000F
  | 0x15 => 0x0000FFFF
  | 0x17 => 0x0000FFFF
  | 0x19 => 0x0000FFFF
  | 0x1B => 0x0000FFFF
  | 0x1D => 0x0000FFFF
  | 0x1F => 0x0000FFFF
  | 0x23 => 0x000003FF
  | 0x25 => 0x0000FFFF
  | k => if k < 0x27 then 0xFFFFFFFF else 0

/-- The bits of word 0 of a directory entry that R271 gives a field (R12). -/
def dirMask : Word := 0x00000FFF

/-! ## Entry image (R250, R273) -/

/-- STATE as the word at 0x100 holds it (R252). -/
def estateCode : EState → Nat
  | .free => 0x0
  | .ready => 0x1
  | .inflight => 0x2
  | .blocked => 0x3
  | .done => 0x4
  | .fault => 0x5
  | .cancelling => 0x6
  | .spReady => 0x8
  | .spBlocked => 0x9
  | .paused => 0xA
  | .moving => 0xB

/-- The state a code names. -/
def estateOf (c : Nat) : Option EState :=
  match c with
  | 0x0 => some .free
  | 0x1 => some .ready
  | 0x2 => some .inflight
  | 0x3 => some .blocked
  | 0x4 => some .done
  | 0x5 => some .fault
  | 0x6 => some .cancelling
  | 0x8 => some .spReady
  | 0x9 => some .spBlocked
  | 0xA => some .paused
  | 0xB => some .moving
  | _ => none

/-- The GOV word (R218). -/
def govWord (g : Gov) : Nat := g.depth + g.full * 2 ^ 5 + g.zero * 2 ^ 11 + b2n g.susp * 2 ^ 19 + g.wait * 2 ^ 20

/-- Governor state from its word. -/
def govOf (n : Nat) : Gov := ⟨nbits n 4 0, nbits n 10 5, nbits n 18 11, n.testBit 19, nbits n 27 20⟩

/-- The 16 bytes of a mask state (R174). -/
def maskBytes (m : MaskSt) : List Byte :=
  leBytes 1 m.state ++ zeros 1 ++ leBytes 2 m.xw ++ leBytes 2 m.yh ++ leBytes 2 m.t ++ leBytes 2 m.y ++
    leBytes 2 m.x ++ zeros 4

/-- Mask state from its bytes. -/
def maskOf (bs : List Byte) : MaskSt :=
  ⟨numAt bs 0 1, numAt bs 2 2, numAt bs 4 2, numAt bs 6 2, numAt bs 8 2, numAt bs 10 2⟩

/-- The block region of an entry without CHECK: bytes 0x100 to 0x1FB (R250). -/
def blockRegion (e : Entry) : List Byte :=
  leBytes 4 (estateCode e.state + e.ackSeq * 2 ^ 4 + e.efault * 2 ^ 12 + e.pin * 2 ^ 20 + e.nextSlot * 2 ^ 23 +
      b2n e.lateSeen * 2 ^ 24) ++
  leBytes 4 e.len ++ leBytes 4 e.new ++ leBytes 4 e.seq ++ leBytes 4 (govWord e.gov) ++
  leBytes 4 e.tail.length ++ slice (e.tail.flatMap (leBytes 3)) 0 48 ++ leBytes 4 e.pages.length ++
  leBytes 4 e.spillIdx ++ leBytes 8 e.blockTime ++ leBytes 8 e.lastStep ++
  leBytes 4 (e.tenant + b2n e.refine * 2 ^ 10) ++ leBytes 4 e.reqId ++ leBytes 4 e.discarded ++
  leBytes 4 e.rejected ++ maskBytes e.mask ++ zeros 124

/-- The 512-byte entry image with a current CHECK (R250, R273). -/
def entryImage (h : List Word) (e : Entry) : List Byte := withCrc (wordsBytes h ++ blockRegion e)

/-- A block-region word as a window read shows it, CHECK the CRC of the bytes before it as they stand (R250). DEDUCED,
log entry 40. -/
def blockWord (h : List Word) (e : Entry) (k : Nat) : Word := w32 (numAt (entryImage h e) (4 * k) 4)

/-! ## Remaining count and depth (R222, R236) -/

/-- A limit of 0 stands for 2^32 (R236). -/
def limitOf (n : Nat) : Nat := if n = 0 then 4294967296 else n

/-- Remaining count of a sequential request (R236): 0 where a limit is below what the entry has already (DEDUCED, log entry
152); that of a cancelled one is capped at `cap` tokens from the cancel (R268). -/
def remainingOf (cap : Nat) (cancelling : Bool) (h : List Word) (e : Entry) : Nat :=
  let r := min (limitOf (hMaxNew h) - e.new) (limitOf (hMaxLen h) - e.len)
  if cancelling then min r (cap - e.since) else r

/-- D_step (R222); a CANCELLING request contributes no draft rows (R268, log entry 31). -/
def depthOf (cap : Nat) (cancelling : Bool) (h : List Word) (e : Entry) : Nat :=
  if hSpecEn h && !cancelling then min e.gov.depth (remainingOf cap cancelling h e - 1) else 0

/-! ## Configuration bank (R96, R305) -/

/-- H. -/
def bankH (s : Block) (b : Nat) : Nat := 64 * bits (bankWord s b 0x40) 8 0
/-- WFMT. -/
def bankWfmt (s : Block) (b : Nat) : Nat := bits (bankWord s b 0x40) 12 9
/-- VOCAB. -/
def bankVocab (s : Block) (b : Nat) : Nat := bits (bankWord s b 0x44) 18 0
/-- WBASE. -/
def bankWbase (s : Block) (b : Nat) : Nat :=
  bits (bankWord s b 0x48) 31 6 * 64 + bits (bankWord s b 0x4C) 15 0 * 2 ^ 32
/-- ε. -/
def bankEps (s : Block) (b : Nat) : Word := bankWord s b 0x50
/-- GROUP_ID. -/
def bankGroup (s : Block) (b : Nat) : Nat := bits (bankWord s b 0x84) 19 0
/-- VOC_BASE. -/
def bankVocBase (s : Block) (b : Nat) : Nat := bits (bankWord s b 0x88) 21 0
/-- GROUP_VOCAB. -/
def bankGroupVocab (s : Block) (b : Nat) : Nat := bits (bankWord s b 0x8C) 22 0
/-- EPOCH of a bank's image. -/
def bankEpoch (s : Block) (b : Nat) : Word := bankWord s b 12
/-- Gain value n as FP32 (R96, R445). -/
def bankGain (s : Block) (b n : Nat) : Word :=
  rd (decodeVal bf16 (bits (bankWord s b (0x10000 + 2 * n / 4 * 4)) (16 * (n % 2) + 15) (16 * (n % 2))))
/-- N, token m and the token list of stop sequence i of set s (R234). -/
def stopSeq (s : Block) (b set i : Nat) : List Nat :=
  let bs := bankBytes s b (0x20000 + set * 0x200 + i * 0x40) 64
  (upto (numAt bs 0 1)).map fun m => numAt bs (4 + 3 * m) 3 % 2 ^ 22

/-- Vocabulary a global index is judged against: the group's when sharded (R188). -/
def vocabAll (s : Block) (b : Nat) : Nat := if shardsOf s b = 1 then bankVocab s b else bankGroupVocab s b

/-! ## Captured registers -/

/-- IN_FMT of a pass (R98). -/
def capInFmt (c : Ctx) : Nat := bits (rc c.regs (reg .sfu 0x080)) 1 0
/-- AFMT of a pass. -/
def capAfmt (c : Ctx) : Nat := bits (rc c.regs (reg .sfu 0x080)) 4 2
/-- RMS_EN of a pass. -/
def capRms (c : Ctx) : Bool := bit (rc c.regs (reg .sfu 0x080)) 5
/-- STATS_EN of a pass. -/
def capStats (c : Ctx) : Bool := bit (rc c.regs (reg .sfu 0x080)) 6
/-- COMPAT of a pass (R138). -/
def capCompat (c : Ctx) : Bool := bit (rc c.regs (reg .sfu 0x08C)) 0

/-- Governor table `g` of a captured set (R232). -/
def govTab (regs : Table Word) (g : Nat) : GovTab :=
  let a := reg .spc (0x080 + g * 0x20)
  let w := rc regs a
  { dMin := bits w 4 0, dMax := bits w 9 5, upRun := bits w 15 10, susp := bits w 23 16, probe := bits w 31 24
    depth := bits (rc regs (a + 4)) 4 0
    drop := (upto 16).map fun b => bits (rc regs (a + 8 + b / 4 * 4)) (8 * (b % 4) + 7) (8 * (b % 4)) }

/-- An adapter descriptor of a captured set (R122). -/
structure AdpDesc where
  en    : Bool
  r     : Nat
  fmt   : Nat
  act   : Nat
  addr  : Nat
  alpha : Word
  deriving DecidableEq, Repr

/-- Adapter slot `k` of tenant `n` (R122). -/
def adpDesc (regs : Table Word) (n k : Nat) : AdpDesc :=
  let a := tenReg n (0x100 + k * 0x10)
  let w := rc regs a
  { en := bit w 0, r := 64 * bits w 3 1, fmt := bits w 5 4, act := bits w 7 6,
    addr := pairAt (rc regs) (a + 4), alpha := rc regs (a + 12) }

/-! ## Rows of a pass -/

/-- Request of a batch that holds entry `i`. -/
def breqOf (b : Batch) (i : Nat) : Option BReq := b.reqs.find? fun q => q.entry = i

/-- Pass state of the request with entry `i`. -/
def preqOf (c : Ctx) (i : Nat) : Option PReq := c.reqs.find? fun q => q.entry = i

/-- Change the pass state of entry `i`. -/
def modPReq (i : Nat) (f : PReq → PReq) (c : Ctx) : Ctx :=
  { c with reqs := c.reqs.map fun q => if q.entry = i then f q else q }

/-- Row `r` of a pass. -/
def rowOf (c : Ctx) (r : Nat) : Option PRow := c.rows[r]?

/-- Change row `r` of a pass. -/
def modRow (r : Nat) (f : PRow → PRow) (c : Ctx) : Ctx :=
  { c with rows := c.rows.mapIdx fun i x => if i = r then f x else x }

/-- Draft tokens of a request, empty until a good block is read (R221). -/
def draftsOf (q : PReq) : List Draft := q.drafts.getD []

/-- Slot whose overlay row of slot `j` reads: slots above DS stand on all DS drafts (R222). -/
def overlaySlot (q : PReq) (j : Nat) : Nat := min j (draftsOf q).length

/-- Scoring fields of a row that needs no table walk (R152, R154). -/
def rowScore (s : Block) (c : Ctx) (br : BReq) (q : PReq) (row : BRow) (e : Entry) : RowScore :=
  let h := br.host
  let maskEp := c.selEp.getD 0 0
  let autoEp := c.selEp.getD 1 0
  let base : RowScore :=
    { rawOnly := true, guideS := 0, invTemp := none, pen := none, view := [], bias := none, allow := none,
      maskEp := maskEp, vocBase := bankVocBase s c.bank }
  if row.kind = 1 then base
  else
    let ts := ((draftsOf q).take (overlaySlot q row.slot)).map (·.token)
    let refine := row.kind = 2
    let cls (t : Nat) : Option Nat :=
      if bankVocBase s c.bank ≤ t && t < bankVocBase s c.bank + bankVocab s c.bank then
        classOf s.stores maskEp (t - bankVocBase s c.bank) else none
    let m := ts.foldl (fun m t => autoMove s.stores autoEp (hAutoTbl h) m (cls t)) e.mask
    { base with
      rawOnly := false
      guideS := hGuideS h
      invTemp := if hTempMode h then none else some (hInvTemp h)
      pen := if hPenEn h && !refine then some (penSet s.stores (c.selEp.getD 3 0) (hPenSet h)) else none
      view := if hPenEn h && !refine then histView (histAppendAll e.hist ts) else []
      bias := if hBiasEn h then some (biasList s.stores (c.selEp.getD 2 0) (hBiasTbl h) 2048 0) else none
      allow := if hMaskEn h then
          some (if hAutoEn h && !refine then hAllow h &&& autoSet s.stores autoEp (hAutoTbl h) m else hAllow h)
        else none }

/-- Sampling fields of a request (R182, R197). -/
def samplingOf (h : List Word) : Sampling :=
  { greedy := hTempMode h || hTopK h = 1, k := hCandK h, topK := hTopK h
    topP := if hTopPEn h then some (hTopP h) else none
    minP := if hMinPEn h then some (hMinP h) else none }

/-- Micro-program base word of the captured epoch when its noise hook is enabled (R139, R143). -/
def noiseHookOf (s : Block) (c : Ctx) : Option (Table Word × Nat) :=
  let base := c.progEp * 32768
  if bit (tget zeroWord s.stores.prog base) 0 then some (s.stores.prog, base) else none

/-- Noise source of a row (R192): `slot` is the draft slot. -/
def noiseSrc (s : Block) (c : Ctx) (br : BReq) (row : BRow) : NoiseSrc :=
  let iter := match (entryAt s br.entry).hist with
    | .refine _ _ i _ _ => i
    | _ => 0
  { key := (upto 4).map fun i => rc c.regs (tenReg br.tenant (0x0C0 + 4 * i))
    c0 := w32 br.reqId
    c1 := w32 row.pos
    c2 := if row.kind = 2 then w32 (iter + 2 ^ 31) else w32 row.slot
    compat := capCompat c
    hook := noiseHookOf s c }

/-! ## Requests of a step, and what their commit reports (R248) -/

/-- Change the pass state of a request. -/
def modReq (i entry : Nat) (f : PReq → PReq) (s : Block) : Block := modCtx i (modPReq entry f) s

/-- The context that commits a request, with the request. -/
def committing (s : Block) (entry : Nat) : Option (Nat × Ctx × BReq × PReq × Plan) :=
  (ctxs s).findSome? fun x =>
    if x.2.phase ≠ .commit then none
    else match breqOf x.2.batch entry, preqOf x.2 entry with
      | some q, some pq => match pq.plan with
        | some pl => some (x.1, x.2, q, pq, pl)
        | none => none
      | _, _ => none

/-- Run tokens computed and discarded (R237, R248, R268); a peer adds RUN − T whatever the request's state (R322; DEDUCED,
log entry 64). -/
def discardedOf (q : BReq) (pl : Plan) : Nat :=
  if q.prev = .cancelling && !pl.remote then pl.runLen else pl.runLen - pl.toks.length

/-- Counts of R248 for the strobes of a request: committed, discarded, scored, verified. -/
def countsOf (q : BReq) (pl : Plan) : Nat × Nat × Nat × Nat :=
  (if q.prev = .cancelling then 0 else pl.toks.length, discardedOf q pl, pl.scored,
   if q.kind = 0 then min (pl.accepted + 1) pl.ds else 0)

end Sys2Proof.Machine
end

