-- ==== Sys2Proof/Machine/Memory.lean ====
section
/-! DEFINITION. The memory ports and the translation unit (R40 to R44, R360 to R375): transfers are cut into
accesses, translated, issued, retried and ended; `mem.done` holds the transfers whose end their owner has
still to take. -/

namespace Sys2Proof.Machine

/-! ## Translation -/

/-- What translation makes of an address. -/
inductive Xlt where
  /-- The physical address. -/
  | phys (a : Nat)
  /-- Refused under the rights set (R364). -/
  | refused
  /-- Translation fault with this cause (R369). -/
  | xfault (cause : Nat)
  /-- No cached translation: a walk is needed. -/
  | miss
  deriving DecidableEq, Repr

/-- Lowest-numbered matching region of `n` regions whose first word lies at `base` (R366). -/
def regionAt (rd : Nat → Word) (base a : Nat) (write : Bool) : Nat → Xlt
  | 0 => .refused
  | n + 1 =>
    -- regions are tried from the lowest: `base` is that of the present one
    let w0 := rd base
    let vb := bits w0 31 12 * 4096 + bits (rd (base + 4)) 15 0 * 2 ^ 32
    let size := (rd (base + 0x10)).toNat * 4096
    if bit w0 0 && decide (vb ≤ a) && decide (a < vb + size) then
      let p := bits (rd (base + 8)) 31 12 * 4096 + bits (rd (base + 12)) 15 0 * 2 ^ 32 + (a - vb)
      if (if write then bit w0 2 else bit w0 1) && decide (p < 2 ^ 48) then .phys p else .refused
    else regionAt rd (base + 0x20) a write n

/-- Whether the tenant of a rights set is in paged mode (R368). -/
def paged (s : Block) (ctx : Option Nat) (n : Nat) : Bool := bit (regFor s ctx (tenReg n 0x0A4)) 0

/-- Root of a tenant's tables, as the pass of the access captured it (R62, R368). -/
def xltRoot (s : Block) (ctx : Option Nat) (n : Nat) : Nat := pairAt (regFor s ctx) (tenReg n 0x0A8) / 4096 * 4096

/-- A cached translation of a tenant's address, one that a walk from the same root made: it gives what a walk would (R368). -/
def cacheHit (s : Block) (n root a : Nat) : Option CachedXlt :=
  s.mem.cache.find? fun c => c.tenant = n && c.root = root && c.vpage = a / 2 ^ c.shift

/-- Translate address `a` under a rights set (R363 to R368). -/
def translate (s : Block) (x : Xfer) (a : Nat) : Xlt :=
  match x.rights with
  | .unchecked => .phys a
  | .system =>
    if bit (regFor s x.ctx (reg .xlt 0x008)) 0 then
      regionAt (regFor s x.ctx) (reg .xlt 0x800) a x.write 16
    else .phys a
  | .tenant n =>
    if paged s x.ctx n then
      match cacheHit s n (xltRoot s x.ctx n) a with
      | some c => if (if x.write then c.wr else c.rd) then .phys (c.phys + a % 2 ^ c.shift) else .xfault 1
      | none => .miss
    else regionAt (regFor s x.ctx) (tenReg n 0x800) a x.write 64

/-! ## Final outcomes (R363, R364, R375) -/

/-- Tenant fault of a finally failed access, by purpose: code of R297, or none. -/
def failCode (x : Xfer) : Option Nat :=
  match x.purpose with
  | .adapter _ _ _ => some tfAdapter
  | .adapterPanel _ _ _ _ => some tfAdapter
  | .row _ _ => some tfRead
  | .draft _ _ => some tfRead
  | .chunk _ _ => some tfRead
  | .record _ _ => some tfWrite
  | .stateRec _ _ => some tfWrite
  | .counter _ _ _ _ => some tfWrite
  | .outRecord _ _ _ => some tfWrite
  | .outCounter _ _ => some tfWrite
  | .pageList _ => some tfWrite
  | .orphan _ => some tfWrite
  | .hist _ => some tfRead
  | .importRec _ => some tfRead
  | _ => none

/-- Fatal fault of a finally failed access, by purpose (R363). -/
def fatalCode (x : Xfer) : Option Nat :=
  match x.purpose with
  | .panel _ _ _ _ _ _ => some 0x05
  | .descRows _ => some 0x06
  | .descHead _ => some 0x06
  | .descLaunch => some 0x06
  | .doneCounter _ => some 0x06
  | _ => none

/-- FAULT_ADDR of a tenant fault: the adapter slot for ADAPTER_READ, else the address (R297). -/
def failAddr (x : Xfer) (addr : Nat) : Nat :=
  match x.purpose with
  | .adapter _ _ slot => slot
  | .adapterPanel _ _ slot _ => slot
  | _ => addr

/-- Final failure of an access at a port: `phys` is the address of its failed beat, the physical one, or after an ABORT the one
asked for (R297; DEDUCED, log entry 130). -/
def accessFailed (x : Xfer) (phys : Nat) (s : Block) : Block :=
  match fatalCode x with
  | some c => fatal c phys s
  | none => match failCode x, x.tenant with
    | some c, some n => tenantFault n c (failAddr x phys) s
    | _, _ => s

/-- An access refused under its rights (R364): REGION in native mode, in place of the tenant fault of R363; a
system access raises SYS_REGION; in paged mode (an ABORT) the tenant fault of R363 stands (log entry 30). -/
def accessRefused (x : Xfer) (addr : Nat) (s : Block) : Block :=
  match x.rights with
  | .system => fatal 0x07 addr s
  | .tenant n =>
    if paged s x.ctx n then accessFailed x addr s else tenantFault n tfRegion addr s
  | .unchecked => s

/-! ## Cutting and issuing -/

/-- Number of beats a transfer touches. -/
def xferBeats (x : Xfer) : Nat := (x.addr + x.len + 63) / 64 - x.addr / 64

/-- Byte address of beat `k` of a transfer as its owner sees it. -/
def beatAddr (x : Xfer) (k : Nat) : Nat := (x.addr / 64 + k) * 64

/-- Next access of a transfer: first beat, beats and tries (R360, R374). -/
def nextPiece (x : Xfer) : Option (Nat × Nat × Nat) :=
  match x.redo with
  | p :: _ => some p
  | [] =>
    if x.issued < xferBeats x then
      let left := xferBeats x - x.issued
      let n := if x.write then 1 else min left (4 - (x.addr / 64 + x.issued) % 4)
      some (x.issued, n, 0)
    else none

/-- The transfer with that access taken off its list. -/
def takePiece (x : Xfer) (n : Nat) : Xfer :=
  match x.redo with
  | _ :: r => { x with redo := r }
  | [] => { x with issued := x.issued + n }

/-- Reads and writes outstanding on a port. -/
def outReads (s : Block) (p : Nat) : Nat := (s.mem.access.filter fun a => a.port = p && !a.write).length
/-- Writes outstanding on a port. -/
def outWrites (s : Block) (p : Nat) : Nat := (s.mem.access.filter fun a => a.port = p && a.write).length

/-- The tag an access takes: the lowest not in use on its port in its direction. R40 forbids a tag in use and no more (DESIGN CHOICE,
log entry 158). -/
def freeTag (s : Block) (p : Nat) (write : Bool) : Option Nat :=
  (upto (if write then 32 else 64)).find? fun t =>
    !s.mem.access.any fun a => a.port = p && a.tag = t && a.write = write

/-- Whether beats overlap an outstanding write (R361). -/
def beatBusy (s : Block) (phys beats : Nat) : Bool :=
  s.mem.access.any fun a => a.write && decide (phys ≤ a.phys) && decide (a.phys < phys + beats * 64)

/-- Whether the port can take another access now. -/
def portFree (s : Block) (x : Xfer) (phys beats : Nat) : Bool :=
  let p := phys / 256 % 4
  !beatBusy s phys beats &&
  (if x.write then decide (outWrites s p < 32)
   else decide (outReads s p < bits (rf s (reg (.mem p) 0x084)) 6 0))

/-- Bytes of beat `k` that a write enables: offset in the beat and the bytes. -/
def writeBytes (x : Xfer) (k : Nat) : Nat × List Byte :=
  let b := beatAddr x k
  let lo := max b x.addr
  let hi := min (b + 64) (x.addr + x.len)
  (lo - b, (x.data.drop (lo - x.addr)).take (hi - lo))

/-- Tenant sideband (R40). -/
def sideband (x : Xfer) : Nat := x.tenant.getD 0x400

/-- INTENT goes out as the first access of a request's state-record write is put on its port (R420); a write that is refused
before that sends none (DEDUCED, log entry 145). -/
def sendIntent (x : Xfer) (s : Block) : Block :=
  match x.purpose with
  | .stateRec _ e => match committing s e with
    | some (i, _, q, pq, pl) =>
      if pq.intent || pq.stage ≠ .stateRec then s
      else
        let n := countsOf q pl
        strobe (.intent q.tenant n.1 n.2.1 n.2.2.1 n.2.2.2) (modReq i e (fun p => { p with intent := true }) s)
    | none => s
  | _ => s

/-- Put an access on its port (R40, R360). -/
def issueAccess (x : Xfer) (k n tries phys tag : Nat) (s : Block) : Block :=
  let p := phys / 256 % 4
  let a : Access := { port := p, tag := tag, write := x.write, phys := phys, beats := n, xfer := x.id, off := k,
                      tries := tries, recvd := [], badPar := none, badErr := none }
  let s := { s with mem := { s.mem with access := s.mem.access ++ [a] } }
  if x.write then
    let w := writeBytes x k
    emit (.write p tag x.kind (sideband x) phys w.1 w.2 (w.2.map bytePar)) s
  else emit (.read p tag x.kind (sideband x) phys n) s

/-- Start a walk for the next access of a transfer (R368): read level 0 of its tenant's tables. -/
def walkRead (x : Xfer) (n level table a : Nat) (rd wr : Bool) (s : Block) : Block :=
  let idx := a / 2 ^ (39 - 9 * level) % 512
  let id := s.mem.nextId
  let w : Walk := { xfer := x.id, rdId := id, level := level, table := table, addr := a, rd := rd, wr := wr }
  let r : Xfer := { id := id, write := false, addr := table + 8 * idx, len := 8, data := [], kind := 6,
                    tenant := some n, rights := .unchecked, ctx := x.ctx, purpose := .walk, issued := 0,
                    redo := [], ended := 0, got := [], failed := false }
  { s with mem := { s.mem with nextId := id + 1, walks := s.mem.walks ++ [w], xfers := s.mem.xfers ++ [r] } }

/-- Report a translation fault (R369, R372). -/
def xltFault (x : Xfer) (n a cause : Nat) (s : Block) : Block :=
  let r : XltReport := { tenant := n, port := a / 256 % 4, kind := x.kind, write := x.write, cause := cause,
                         addr := a }
  let s := irqRaise .xlt 0 (irqRaise (.ten n) 4 s)
  let m := s.mem
  let s := if m.fqueue.length < 64 then { s with mem := { m with fqueue := m.fqueue ++ [r] } }
           else { s with mem := { m with fqWait := m.fqWait ++ [r] } }
  let s := { s with mem := { s.mem with xltHeld := s.mem.xltHeld ++ [n] } }
  if m.fqueue.length = 63 then irqRaise .xlt 1 s else s

/-- The tenant whose paged translation a transfer goes through, if any. -/
def pagedTenant (s : Block) (x : Xfer) : Option Nat :=
  match x.rights with
  | .tenant n => if paged s x.ctx n then some n else none
  | _ => none

/-- Whether a paged tenant's accesses must wait: a pending fault, or a walk under way (R369). -/
def pagedWaits (s : Block) (x : Xfer) : Bool :=
  match pagedTenant s x with
  | some n => s.mem.xltHeld.contains n ||
      s.mem.walks.any fun w => (s.mem.xfers.find? fun y => y.id = w.xfer).any fun y => y.rights = .tenant n
  | none => false

/-- A load a read of which has failed: it ends at once (R443). -/
def loadOver (x : Xfer) : Bool := x.failed && x.purpose = .load

/-- Issue, refuse or hold accesses of one transfer until it must wait. -/
def pumpXfer : Nat → Xfer → Block → Xfer × Block
  | 0, x, s => (x, s)
  | fuel + 1, x, s =>
    if s.fault || pagedWaits s x || loadOver x then (x, s)
    else match nextPiece x with
      | none => (x, s)
      | some (k, n, tries) =>
        let a := beatAddr x k
        match translate s x a with
        | .refused =>
          pumpXfer fuel { takePiece x n with ended := x.ended + n, failed := true } (accessRefused x a s)
        | .xfault c =>
          match x.rights with
          | .tenant t => (x, xltFault x t a c s)
          | _ => (x, s)
        | .miss =>
          match x.rights with
          | .tenant t => (x, walkRead x t 0 (xltRoot s x.ctx t) a true true s)
          | _ => (x, s)
        | .phys p =>
          if portFree s x p n then
            match freeTag s (p / 256 % 4) x.write with
            | some tag => pumpXfer fuel (takePiece x n) (issueAccess x k n tries p tag (sendIntent x s))
            | none => (x, s)
          else (x, s)

/-- Store a transfer back, or move it to `done` once every beat has ended or it can go no further. -/
def keepXfer (x : Xfer) (s : Block) : Block :=
  if s.fault then s
  else if x.ended < xferBeats x && !loadOver x then
    { s with mem := { s.mem with xfers := s.mem.xfers.map fun y => if y.id = x.id then x else y } }
  else
    { s with mem := { s.mem with xfers := s.mem.xfers.filter (fun y => y.id ≠ x.id), done := s.mem.done ++ [x] } }

/-- One pass over every transfer, the oldest first and each as far as it can go. R42 leaves the order of what waits open (DESIGN CHOICE,
log entry 159). -/
def pumpAll (ids : List Nat) (s : Block) : Block :=
  ids.foldl (fun s i =>
    match s.mem.xfers.find? fun x => x.id = i with
    | some x => let r := pumpXfer (2 * xferBeats x + 2) x s
                keepXfer r.1 r.2
    | none => s) s

/-- Issue whatever the ports can take; a second pass serves the walks the first began. -/
def pump (s : Block) : Block :=
  let s := pumpAll (s.mem.xfers.map (·.id)) s
  pumpAll (s.mem.xfers.map (·.id)) s

/-- Ask for a transfer; a fault state issues nothing (R377). -/
def request (write : Bool) (addr len : Nat) (data : List Byte) (kind : Nat) (tenant : Option Nat)
    (rights : Rights) (ctx : Option Nat) (purpose : Purpose) (s : Block) : Block :=
  if s.fault then s
  else
    let x : Xfer := { id := s.mem.nextId, write := write, addr := addr, len := len, data := data, kind := kind,
                      tenant := tenant, rights := rights, ctx := ctx, purpose := purpose, issued := 0,
                      redo := [], ended := 0, got := [], failed := false }
    { s with mem := { s.mem with nextId := s.mem.nextId + 1, xfers := s.mem.xfers ++ [x] } }

/-- The bytes a read transfer has received. -/
def xferBytes (x : Xfer) : List Byte :=
  slice ((upto (xferBeats x)).flatMap fun k => beatBytes (tget (fun _ => 0) x.got k)) (x.addr % 64) x.len

/-! ## Walks (R368, R369) -/

/-- Rights, next table and malformedness of an entry at a level; of several faults of one entry V comes first, then malformed
bits, then rights (R369; DEDUCED, log entry 131). A 2 MiB page whose NEXT has a bit set that R368 wants zero is malformed too
(DEDUCED, log entry 165). -/
def walkStep (x : Xfer) (w : Walk) (a : Nat) (n : Nat) (entry : Nat) (s : Block) : Block :=
  let drop (s : Block) : Block :=
    { s with mem := { s.mem with walks := s.mem.walks.filter fun v => v.rdId ≠ w.rdId } }
  let v := entry.testBit 0
  let rd := w.rd && entry.testBit 1
  let wr := w.wr && entry.testBit 2
  let leaf := w.level = 3 || (w.level = 2 && entry.testBit 3)
  let nxt := nbits entry 47 12 * 4096
  let s := drop s
  if !v then xltFault x n a 0 s
  else if (w.level < 2 && entry.testBit 3) || nbits entry 11 4 ≠ 0 || nbits entry 63 48 ≠ 0 ||
      (w.level = 2 && entry.testBit 3 && nbits entry 20 12 ≠ 0) then xltFault x n a 2 s
  else if !(if x.write then wr else rd) then xltFault x n a 1 s
  else if leaf then
    let sh := if w.level = 2 then 21 else 12
    let c : CachedXlt := { tenant := n, root := xltRoot s x.ctx n, vpage := a / 2 ^ sh, shift := sh, phys := nxt, rd := rd, wr := wr }
    { s with mem := { s.mem with cache := (s.mem.cache ++ [c]).drop (s.mem.cache.length + 1 - 512) } }
  else walkRead x n (w.level + 1) nxt a rd wr s

/-- The read of a walk has ended. -/
def walkDone (r : Xfer) (s : Block) : Block :=
  match s.mem.walks.find? fun w => w.rdId = r.id with
  | none => s
  | some w =>
    match s.mem.xfers.find? fun x => x.id = w.xfer with
    | none => { s with mem := { s.mem with walks := s.mem.walks.filter fun v => v.rdId ≠ r.id } }
    | some x =>
      match x.rights with
      | .tenant n =>
        if r.failed then
          xltFault x n w.addr 3 { s with mem := { s.mem with walks := s.mem.walks.filter fun v => v.rdId ≠ r.id } }
        else walkStep x w w.addr n (leNat (xferBytes r)) s
      | _ => { s with mem := { s.mem with walks := s.mem.walks.filter fun v => v.rdId ≠ r.id } }

/-! ## Responses (R41 to R43, R374) -/

/-- The access outstanding under a port, tag and direction. -/
def accessAt (s : Block) (port tag : Nat) (write : Bool) : Option Access :=
  s.mem.access.find? fun a => a.port = port && a.tag = tag && a.write = write

/-- Take an access off its port. -/
def dropAccess (a : Access) (s : Block) : Block :=
  { s with mem := { s.mem with access := s.mem.access.filter fun b =>
      !(b.port = a.port && b.tag = a.tag && b.write = a.write) } }

/-- Replace an outstanding access. -/
def putAccess (a : Access) (s : Block) : Block :=
  { s with mem := { s.mem with access := s.mem.access.map fun b =>
      if b.port = a.port && b.tag = a.tag && b.write = a.write then a else b } }

/-- Enter received beats into a transfer. -/
def putBeats (t : Table (BitVec 512)) (k : Nat) : List (BitVec 512) → Table (BitVec 512)
  | [] => t
  | b :: bs => putBeats (tset (fun _ => 0) t k b) (k + 1) bs

/-- Whether a failed read is retried: a parity mismatch of any kind, an error response of kinds 000 and 001,
twice at most (R374). A read of another kind with both is not retried (DEDUCED, log entry 111). -/
def retried (x : Xfer) (a : Access) : Bool :=
  decide (a.tries < 2) && (a.badErr.isNone || decide (x.kind ≤ 1))

/-- The last beat of a read has arrived (R374). -/
def readEnded (a : Access) (s : Block) : Block :=
  let s := dropAccess a s
  match s.mem.xfers.find? fun x => x.id = a.xfer with
  | none => s
  | some x =>
    let bad := match a.badErr, a.badPar with
      | some i, some j => some (min i j)
      | some i, none => some i
      | none, j => j
    match bad with
    | none =>
      let s := if a.tries = 0 then s else correctedUp a.port s
      keepXfer { x with ended := x.ended + a.beats, got := putBeats x.got a.off a.recvd } s
    | some i =>
      if retried x a then
        keepXfer { x with redo := x.redo ++ [(a.off, a.beats, a.tries + 1)] } s
      else
        keepXfer { x with ended := x.ended + a.beats, failed := true } (accessFailed x (a.phys + 64 * i) s)

/-- Index of the first beat with wrong parity. -/
def firstBad : Nat → List Beat → Option Nat
  | _, [] => none
  | k, b :: bs => if beatOk b then firstBad (k + 1) bs else some k

/-- A read transfer arrives (R41, R43): any response code but OKAY is an error response (DEDUCED, log entry 27). -/
def readResponse (port tag : Nat) (beats : List Beat) (last : Bool) (err : BitVec 2) (s : Block) : Block :=
  match accessAt s port tag false with
  | none => fatal 0x01 (port + 4 * tag) s
  | some a =>
    let have_ := a.recvd.length
    if a.beats < have_ + beats.length || (last && have_ + beats.length < a.beats) then
      fatal 0x01 (port + 4 * tag) s
    else
      let isErr := decide (err ≠ 0)
      let nbad := (beats.filter fun b => !beatOk b).length
      let s := if s.fault then s else parErrUp port nbad (if isErr then errRspUp port s else s)
      let a := { a with
        recvd := a.recvd ++ beats.map (·.data)
        badPar := match a.badPar with | some i => some i | none => firstBad have_ beats
        badErr := match a.badErr with | some i => some i | none => if isErr then some have_ else none }
      if last then readEnded a s else putAccess a s

/-- A write response arrives (R42, R43): a failed write is never retried. Any code but OKAY is an error response (DEDUCED,
log entry 27). -/
def writeResponse (port tag : Nat) (err : BitVec 2) (s : Block) : Block :=
  match accessAt s port tag true with
  | none => fatal 0x01 (port + 4 * tag) s
  | some a =>
    let isErr := decide (err ≠ 0)
    let s := if isErr && !s.fault then errRspUp port s else s
    let s := dropAccess a s
    match s.mem.xfers.find? fun x => x.id = a.xfer with
    | none => s
    | some x =>
      if isErr then keepXfer { x with ended := x.ended + 1, failed := true } (accessFailed x a.phys s)
      else keepXfer { x with ended := x.ended + 1 } s

/-- MEMn.TIMEOUT passes for an outstanding access (R43). -/
def memTimeout (port tag : Nat) (write : Bool) (s : Block) : Block :=
  match accessAt s port tag write with
  | none => s
  | some _ => fatal 0x02 (port + 4 * tag + (if write then 256 else 0)) s

/-! ## Software's answers (R371 to R373) -/

/-- Drop cached translations, and restart the walks under way, of one tenant or of all (R371, R373). -/
def dropXlt (p : Nat → Bool) (s : Block) : Block :=
  let keepWalk (w : Walk) : Bool := match s.mem.xfers.find? fun x => x.id = w.xfer with
    | some x => match x.rights with
      | .tenant n => !p n
      | _ => true
    | none => false
  { s with mem := { s.mem with
      cache := s.mem.cache.filter (fun c => !p c.tenant)
      walks := s.mem.walks.filter keepWalk } }

/-- RETRY (R371). -/
def xltRetry (n : Nat) (s : Block) : Block :=
  if s.mem.xltHeld.contains n then
    let s := dropXlt (fun m => m = n) s
    { s with mem := { s.mem with xltHeld := s.mem.xltHeld.filter fun m => m ≠ n } }
  else countUp (reg .xlt 0x09C) 1 s

/-- Refuse every access of a transfer still to be issued. -/
def refuseAll : Nat → Xfer → Block → Xfer × Block
  | 0, x, s => (x, s)
  | fuel + 1, x, s =>
    match nextPiece x with
    | none => (x, s)
    | some (k, n, _) =>
      refuseAll fuel { takePiece x n with ended := x.ended + n, failed := true }
        (accessRefused x (beatAddr x k) s)

/-- ABORT (R371): the waiting accesses of the tenant are refused, and none is where a park has dropped the one that faulted (DEDUCED,
log entry 166). -/
def xltAbort (n : Nat) (s : Block) : Block :=
  if s.mem.xltHeld.contains n then
    let s := { s with mem := { s.mem with xltHeld := s.mem.xltHeld.filter fun m => m ≠ n } }
    let ids := (s.mem.xfers.filter fun x => pagedTenant s x = some n).map (·.id)
    ids.foldl (fun s i =>
      match s.mem.xfers.find? fun x => x.id = i with
      | some x => let r := refuseAll (2 * xferBeats x + 2) x s
                  keepXfer r.1 r.2
      | none => s) s
  else countUp (reg .xlt 0x09C) 1 s

/-- FQ_POP (R372): the oldest report leaves and a waiting one enters. -/
def fqPop (s : Block) : Block :=
  match s.mem.fqueue with
  | [] => s
  | _ :: q =>
    match s.mem.fqWait with
    | [] => { s with mem := { s.mem with fqueue := q } }
    | r :: w => { s with mem := { s.mem with fqueue := q ++ [r], fqWait := w } }

end Sys2Proof.Machine
end

