-- ==== Sys2Proof/Machine/Table.lean ====
section
/-! DEFINITION. The request table (R249 to R277): the entry and directory commands of a scan, admission and
import, cancel, pause, spill, fill, eviction, export, and what the end of each transfer leaves. -/

namespace Sys2Proof.Machine

/-! ## Tenant and ring operands -/

/-- PRIV in force (R292). -/
def tenPriv (s : Block) (n : Nat) : Bool := bit (rf s (tpolReg n 0)) 1

/-- Whether a tenant is enabled for R76 and R257 (R281). -/
def tenActive (s : Block) (n : Nat) : Bool := (tenantAt s n).state = .active

/-- Whether a tenant is DRAINING (R282). -/
def tenDraining (s : Block) (n : Nat) : Bool := (tenantAt s n).state = .draining

/-- Records a ring holds: 2^LOG2 (R238). -/
def ringSize (rd : Nat → Word) (t k : Nat) : Nat := 2 ^ bits (rd (tenReg t (0x180 + 0x20 * k))) 5 1

/-- Address of RINGk_HEAD. -/
def ringHeadReg (t k : Nat) : Nat := tenReg t (0x18C + 0x20 * k)

/-- Address of the slot of record `h` (R238). -/
def ringSlot (rd : Nat → Word) (t k h : Nat) : Nat :=
  pairAt rd (tenReg t (0x184 + 0x20 * k)) + 32 * (h % ringSize rd t k)

/-- Reserve `n` records in a ring (R239): HEAD before it, or none with the tenant fault RING_OVERFLOW. -/
def ringReserve (rd : Nat → Word) (t k n entry : Nat) (s : Block) : Option Nat × Block :=
  let head := countOf (ringHeadReg t k) s
  let tail := (wr s (tenReg t (0x190 + 0x20 * k))).toNat
  let used := (head + 4294967296 - tail) % 4294967296
  let size := ringSize rd t k
  if size < used || size - used < n then
    (none, tenantFault t tfRing (entry % 16384 + k * 16384) s)
  else
    (some head, { s with reg := { s.reg with
      counts := tset (fun _ => 0) s.reg.counts (ringHeadReg t k) ((head + n) % 4294967296) } })

/-- A 32-byte record (R241): bytes 12–15, 20–21 and 28–31 by kind. -/
def recordBytes (seq reqId kind status flags b12 pos b20 step b28 : Nat) : List Byte :=
  leBytes 4 seq ++ leBytes 4 reqId ++ leBytes 1 kind ++ leBytes 1 status ++ leBytes 2 flags ++ leBytes 4 b12 ++
    leBytes 4 pos ++ leBytes 2 b20 ++ leBytes 6 step ++ leBytes 4 b28

/-- Host address of completion counter `c` of tenant `t` (R294). Where a range moved since the binding would put it below 0, it is 0
(DESIGN CHOICE, log entry 163). -/
def counterAddr (rd : Nat → Word) (t c : Nat) : Nat :=
  pairAt rd (tpolReg t 0x18) + 8 * c - 8 * bits (rd (tpolReg t 0x10)) 15 0

/-! ## Entries in use -/

/-- Sorted keys without repeats. -/
def insertKey (k : Nat) : List Nat → List Nat
  | [] => [k]
  | j :: l => if k < j then k :: j :: l else if k = j then j :: l else j :: insertKey k l

/-- Entries whose CMD word was written, from the keys of the host regions. -/
def cmdKeys : Table Word → List Nat
  | [] => []
  | (k, _) :: t => if k % 128 = 0 then k / 128 :: cmdKeys t else cmdKeys t

/-- Entries that are not as a reset leaves them, or whose CMD word was written, in ascending index. -/
def knownEntries (s : Block) : List Nat :=
  ((s.entries.map fun e => e.1) ++ cmdKeys s.host).foldl (fun l k => insertKey k l) []

/-- REQ.SPILL_N in force. -/
def spillN (s : Block) : Nat := bits (rf s (reg .req 0x0B4)) 14 0

/-- Directory entries in use that are not FREE or whose CMD word was written, in ascending index (R471). -/
def knownDirs (s : Block) : List Nat :=
  (((s.dir.map fun e => e.1) ++ (s.dirHost.map fun e => e.1)).foldl (fun l k => insertKey k l) []).filter fun d =>
    decide (d < spillN s)

/-- Entries not FREE, by index. -/
def usedEntries (s : Block) : List Nat := (s.entries.map fun e => e.1).filter fun i => (entryAt s i).state ≠ .free

/-- Directory entries not FREE, by index. -/
def spilledDirs (s : Block) : List Nat := (s.dir.map fun e => e.1).filter fun d => (dirAt s d).state ≠ .free

/-- Whether counter `c` is assigned to tenant `t` for entry `i` (R293). An entry names the counter of its ADMIT or IMPORT
until it is FREE, whatever its F field COUNTER reads since (DEDUCED, log entry 123). -/
def counterOk (s : Block) (t c i : Nat) : Bool :=
  let first := bits (rf s (tpolReg t 0x10)) 15 0
  let num := bits (rf s (tpolReg t 0x14)) 16 0
  decide (first ≤ c) && decide (c < first + num) &&
  (usedEntries s).all (fun j => j = i || (entryAt s j).counter ≠ c) &&
  (spilledDirs s).all fun d => (dirAt s d).counter ≠ c

/-- Make a resident entry FREE: its pages return, and what no rule names stays in the block region (R254, R262). -/
def freeEntry (i : Nat) (s : Block) : Block :=
  let e := entryAt s i
  setEntry i { e with state := .free, pages := [], chunk := none, cancelDone := false, autoCancel := false,
                      arrive := none, overtaken := false } (freePages e.pages s)

/-- Make a directory entry FREE; the words that no rule names stay (R271). -/
def freeDir (d : Nat) (s : Block) : Block :=
  setDir d { dirAt s d with
    state := .free, pages := [], counter := 0, arrive := none, ended := false, expiry := none, cancel := false } s

/-! ## Records outside a commit (R269, R270, R475) -/

/-- Reserve and issue a record of R475; its OKAY lets the counter follow. -/
def writeOutside (t ring entry reqId seq len lastStep counter status : Nat) (s : Block) : Block :=
  let r := ringReserve (rf s) t ring 1 entry s
  match r.1 with
  | none => r.2
  | some h =>
    request true (ringSlot (rf s) t ring h) 32
      (recordBytes seq reqId 0 status 0x3 0 len 0 lastStep 0) 2 (some t) (.tenant t) none
      (.outRecord t counter ((seq + 1) % 4294967296)) r.2

/-- The record of such a write has OKAY: write its counter (R42, R294). -/
def outRecordDone (x : Xfer) (t c v : Nat) (s : Block) : Block :=
  if x.failed then s
  else request true (counterAddr (rf s) t c) 8 (leBytes 8 v) 5 (some t) (.tenant t) none (.outCounter c v) s

/-- A counter write has OKAY: the on-block counter takes the value (R294). -/
def counterSet (c v : Nat) (s : Block) : Block := { s with counters := tset (fun _ => 0) s.counters c v }

/-! ## Cancel (R267 to R269, R282) -/

/-- CANCEL of a resident READY or BLOCKED entry; SEQ passes the record of R269 where one is issued. -/
def cancelEntry (i : Nat) (s : Block) : Block :=
  let e := entryAt s i
  let h := hostWords s i
  if tenPriv s e.tenant then
    let room := (ringReserve (rf s) e.tenant (hRing h) 1 i s).1.isSome
    let s := writeOutside e.tenant (hRing h) i e.reqId e.seq e.len e.lastStep (hCounter h) 0x04 s
    let s := freePages e.pages s
    modEntry i (fun e => { e with
      state := .done, seq := (e.seq + b2n room) % 4294967296, pages := [], chunk := none }) s
  else modEntry i (fun e => { e with state := .cancelling, cancelDone := false, since := 0 }) s

/-- Slot of a spill-directory entry (R270). -/
def spillSlot (s : Block) (d : Nat) : Nat := pairAt (rf s) (reg .req 0x0AC) + d * 2048

/-- End a spilled entry with a record of this status: its ring, SEQ and counter are read from the spill slot
(R269, R270). -/
def endSpilled (d status : Nat) (s : Block) : Block :=
  let e := dirAt s d
  let s := setDir d { e with state := .moving } s
  request false (spillSlot s d) 512 [] 4 (some e.tenant) .system none (.spillEnd d status) s

/-- The slot of an ended spilled entry has been read: the record, then FREE (R269, R270, R475). -/
def spillEndDone (x : Xfer) (d status : Nat) (s : Block) : Block :=
  let e := dirAt s d
  let bs := xferBytes x
  let s := if x.failed then s else
    writeOutside e.tenant (numAt bs 7 1 % 4) (numAt bs 0x14C 4 % 16384) e.reqId (numAt bs 0x10C 4)
      (numAt bs 0x104 4) (numAt bs 0x158 6) (numAt bs 0x16 2) status s
  freeDir d (freePages e.pages s)

/-! ## Spilling (R270, R272) -/

/-- Spill an entry to directory entry `d`, to stand in `st` with this word 3 when the transfer has ended. Until then slot and
directory entry are both MOVING, and TEN.ENTRIES counts both (R255, R303; DEDUCED, log entry 162). -/
def spillTo (i d : Nat) (st : EState) (word3 : Word) (expiry : Option Nat) (s : Block) : Block :=
  let e := entryAt s i
  let h := hostWords s i
  let s := request true (spillSlot s d) 2048 (entryImage h e ++ histImage e.hist) 4 (some e.tenant) .system none
    (.spill i d) s
  let s := setDir d { state := .moving, ackSeq := (dirAt s d).ackSeq, tenant := e.tenant, reqId := e.reqId,
                      word3 := word3, counter := e.counter, pages := e.pages, arrive := some st,
                      ended := false, expiry := expiry, cancel := false,
                      copies := (e.refP, e.refT, e.depthInit) } s
  modEntry i (fun e => { e with state := .moving, spillIdx := d, arrive := none }) s

/-- Lowest FREE directory entry in use. -/
def freeDirIdx (s : Block) : Option Nat := (upto (spillN s)).find? fun d => (dirAt s d).state = .free

/-- The write of a spill has ended: the resident slot reads FREE, or the entry is in FAULT (R255, R270). -/
def spillDone (x : Xfer) (i d : Nat) (s : Block) : Block :=
  if x.failed then modEntry i (fun e => { e with arrive := some (.fault, efMemory) }) (freeDir d s)
  else
    modEntry i (fun e => { e with pages := [], arrive := some (.free, 0) })
      (setDir d { dirAt s d with ended := true, cancel := (entryAt s i).autoCancel } s)

/-! ## Filling (R272) -/

/-- Start a fill of resident slot `i` from directory entry `d`. -/
def fillFrom (i d : Nat) (s : Block) : Block :=
  let e := dirAt s d
  let s := request false (spillSlot s d) 2048 [] 4 (some e.tenant) .system none (.fill i d) s
  let s := setDir d { e with state := .moving, pages := [], arrive := some .free, ended := false } s
  let old := entryAt s i
  setEntry i { Entry.freed with state := .moving, ackSeq := old.ackSeq, spillIdx := old.spillIdx, pin := 4,
                                tenant := e.tenant, reqId := e.reqId, pages := e.pages, counter := e.counter } s

/-- The block region a record spells (R250), with no state of its own beside it. -/
def entryOf (bs : List Byte) (h : Hist) (a : Nat × Nat × Nat) : Entry :=
  let w := numAt bs 0x100 4
  { Entry.freed with
    state := (estateOf (nbits w 3 0)).getD .free
    ackSeq := nbits w 11 4, efault := nbits w 19 12, pin := nbits w 22 20, nextSlot := nbits w 23 23
    lateSeen := w.testBit 24, len := numAt bs 0x104 4, new := numAt bs 0x108 4, seq := numAt bs 0x10C 4
    gov := govOf (numAt bs 0x110 4)
    tail := (upto (numAt bs 0x114 4 % 16)).map fun m => numAt bs (0x118 + 3 * m) 3 % 2 ^ 22
    spillIdx := numAt bs 0x14C 4 % 2 ^ 14, blockTime := numAt bs 0x150 8, lastStep := numAt bs 0x158 6
    tenant := numAt bs 0x160 4 % 1024, refine := (numAt bs 0x160 4).testBit 10, reqId := numAt bs 0x164 4
    discarded := numAt bs 0x168 4, rejected := numAt bs 0x16C 4, mask := maskOf (slice bs 0x170 16)
    hist := h, refP := a.1, refT := a.2.1, depthInit := a.2.2 }

/-- Replace an entry's host region by a record's; reserved fields take nothing (R12). -/
def setHost (i : Nat) (bs : List Byte) (s : Block) : Block :=
  let ws := (upto 64).map fun k => w32 (numAt bs (4 * k) 4) &&& hostMask k
  { s with host := storePut s.host (i * 128) (wordsBytes ws) }

/-- The read of a fill has ended: the entry becomes READY at the next boundary, or takes FAULT (R255, R272). The block
region, ACK_SEQ included, is the image's; what the block keeps of the slot, of the admission and of a held CANCEL stays
(R250, R251, R282, R293). -/
def fillDone (x : Xfer) (i d : Nat) (s : Block) : Block :=
  let old := entryAt s i
  let s := setDir d { dirAt s d with word3 := w32 (2 ^ 31 + i), ended := true } s
  if x.failed then setEntry i { old with arrive := some (.fault, efMemory) } s
  else
    let bs := xferBytes x
    let hb := slice bs 512 1536
    let refine := (numAt bs 0x160 4).testBit 10
    let h := if refine then histOfRefine hb else histOfSeq hb
    let e := entryOf bs h (dirAt s d).copies
    setEntry i { e with state := .moving, spillIdx := old.spillIdx, pin := old.pin, tenant := old.tenant
                        pages := old.pages, counter := old.counter, autoCancel := old.autoCancel
                        arrive := some (.ready, 0) } (setHost i (slice bs 0 256) s)

/-! ## Admission and import (R164, R209, R257, R275) -/

/-- What admission loads for a history source: bytes to read, or none when R164 refuses it at once. -/
def histBytes (h : List Word) : Option Nat :=
  if hHistSrc h = 3 || (hHistSrc h < 2 && 192 < hHistW h) || (hHistSrc h = 1 && hRefine h) then none
  else if hHistSrc h = 2 then some 1536
  else if hHistSrc h = 1 then some (4 * hHistLen h)
  else some 0

/-- The slot a history source gives from the bytes read; none is HISTORY_BAD. -/
def histBuild (h : List Word) (bs : List Byte) : Option Hist :=
  if hRefine h then
    if hHistSrc h = 2 then histLoadRefine (hRefP h) (hRefT h) bs
    else some (.refine (hRefP h) (hRefT h) 0 (hRefP h) [])
  else if hHistSrc h = 2 then histLoadSeq bs
  else
    let start : Hist := .seq (hHistW h) 0 0 0 [] []
    if hHistSrc h = 1 then
      let ts := (upto (bs.length / 4)).map fun m => numAt bs (4 * m) 4
      if ts.all fun t => decide (t < 2 ^ 22) then some (histAppendAll start ts) else none
    else some start

/-- The checks of R257. -/
def admitOk (s : Block) (i : Nat) (h : List Word) : Bool :=
  let t := hTenant h
  tenActive s t && !inFault s t && counterOk s t (hCounter h) i && decide (hDlPolicy h < 2) &&
  hSrecAddr h % 512 = 0 && hPlistAddr h % 4 = 0

/-- The state an admitted entry has while its history loads (R257, R233, R174). -/
def admitted (h : List Word) (ack spillIdx : Nat) : Entry :=
  { Entry.freed with
    state := .moving, ackSeq := ack, spillIdx := spillIdx, len := hLen0 h
    gov := { Gov.zeroed with depth := if hSpecEn h then hDepthInit h else 0 }
    tenant := hTenant h, refine := hRefine h, reqId := hReqId h
    mask := ⟨hAutoState0 h, hXW h, hYH h, hT0 h, hY0 h, hX0 h⟩, refP := hRefP h, refT := hRefT h
    depthInit := hDepthInit h, adm := h, counter := hCounter h }

/-- What a FREE entry takes from its host region before the checks of R257: the copies of R251, the rest of its block
region left as it is. DEDUCED, log entry 97. -/
def claimed (h : List Word) (e : Entry) : Entry :=
  { e with tenant := hTenant h, refine := hRefine h, reqId := hReqId h, refP := hRefP h, refT := hRefT h
           depthInit := hDepthInit h, adm := h, counter := hCounter h }

/-- Finish an admission once its history is built. -/
def histLoaded (h : List Word) (bs : List Byte) (i : Nat) (s : Block) : Block :=
  match histBuild h bs with
  | none => entryFault i efHistory s
  | some b => modEntry i (fun e => { e with state := .ready, hist := b }) s

/-- ADMIT of a FREE entry (R257): the checks, then the settings, then the history, read from HIST_ADDR as given (R154; DESIGN
CHOICE for a misaligned one, log entry 150). -/
def admitEntry (i : Nat) (s : Block) : Block :=
  let h := hostWords s i
  let e := entryAt s i
  if !admitOk s i h then entryFault i efAdmit (setEntry i (claimed h e) s)
  else
    let s := setEntry i (admitted h e.ackSeq e.spillIdx) s
    match histBytes h with
    | none => entryFault i efHistory s
    | some 0 => histLoaded h [] i s
    | some n => request false (hHistAddr h) n [] 4 (some (hTenant h)) (.tenant (hTenant h)) none (.hist i) s

/-- IMPORT of a FREE entry (R275): the record, then the history source. -/
def importEntry (i : Nat) (s : Block) : Block :=
  let h := hostWords s i
  let e := entryAt s i
  let t := hTenant h
  if !admitOk s i h then entryFault i efAdmit (setEntry i (claimed h e) s)
  else match histBytes h with
    | none => entryFault i efHistory (setEntry i (claimed h e) s)
    | some n =>
      let s := setEntry i { claimed h e with state := .moving, autoCancel := false, arrive := none } s
      let s := request false (hXferAddr h) 512 [] 4 (some t) (.tenant t) none (.importRec i) s
      if n = 0 then s else request false (hHistAddr h) n [] 4 (some t) (.tenant t) none (.hist i) s

/-- Whether a state record can be imported into an entry (R275). -/
def importOk (h : List Word) (bs : List Byte) : Bool :=
  (crc32 (slice bs 0 508)).toNat = numAt bs 508 4 && numAt bs 0x164 4 = hReqId h &&
  (numAt bs 0x160 4).testBit 10 = hRefine h &&
  (match estateOf (numAt bs 0x100 4 % 16) with
   | some .ready => true
   | some .blocked => true
   | some .cancelling => true
   | some .inflight => true
   | some .moving => true
   | _ => false)

/-- The imported state and block region (R275). -/
def imported (h : List Word) (rec bs : List Byte) (old : Entry) : EState × Entry :=
  match histBuild h bs with
  | none => (.fault, { old with arrive := some (.fault, efHistory) })
  | some b =>
    let e := entryOf rec b (hRefP h, hRefT h, hDepthInit h)
    let st := match e.state with
      | .blocked => .blocked
      | .cancelling => .cancelling
      | _ => .ready
    (st, { e with state := .moving, ackSeq := old.ackSeq, tenant := hTenant h, spillIdx := old.spillIdx, adm := h
                  counter := old.counter, autoCancel := old.autoCancel, cancelDone := st = .cancelling, since := 0, arrive := some (st, 0) })

/-- The reads of an admission or import have ended: what the entry becomes at the next boundary (R255), by the fields
that its command read (R251, R253). Of several faults a failed read comes first, then the record, then the history (DEDUCED,
log entry 142). -/
def loadDone (i : Nat) (xs : List Xfer) (s : Block) : Block :=
  let old := entryAt s i
  let h := old.adm
  let hist := match xs.find? fun x => x.purpose = .hist i with
    | some x => xferBytes x
    | none => []
  if xs.any (·.failed) then setEntry i { old with arrive := some (.fault, efMemory) } s
  else match xs.find? fun x => x.purpose = .importRec i with
    | some x =>
      if importOk h (xferBytes x) then setEntry i (imported h (xferBytes x) hist old).2 s
      else setEntry i { old with arrive := some (.fault, efImport) } s
    | none => match histBuild h hist with
      | none => setEntry i { old with arrive := some (.fault, efHistory) } s
      | some b => setEntry i { old with hist := b, arrive := some (.ready, 0) } s

/-- Whether a transfer belongs to the background work of entry `i`. -/
def ownsXfer (s : Block) (i : Nat) (x : Xfer) : Bool :=
  match x.purpose with
  | .hist j => j = i
  | .importRec j => j = i
  | .exportImg j => j = i
  | .fill j _ => j = i
  | .spill j _ => j = i
  | _ => false

/-- What the ended transfers of entry `i` leave, the first one telling their kind. -/
def transferEnd (i : Nat) (x : Xfer) (xs : List Xfer) (s : Block) : Block :=
  match x.purpose with
  | .spill _ d => spillDone x i d s
  | .fill _ d => fillDone x i d s
  | .exportImg _ =>
    let a : EState × Nat := if xs.any (fun y => y.failed) then (.fault, efMemory) else (.free, 0)
    let s := if a.1 = .free then freePages (entryAt s i).pages s else s
    modEntry i (fun e => { e with arrive := some a, pages := if a.1 = .free then [] else e.pages }) s
  | _ => loadDone i xs s

/-- TRANSFER_DONE for entry `i` (R255): once every transfer of its has ended, the state of the next boundary is
fixed. -/
def transferDone (i : Nat) (s : Block) : Block :=
  match s.mem.done.filter (ownsXfer s i) with
  | [] => s
  | x :: xs =>
    if s.mem.xfers.any (ownsXfer s i) then s
    else transferEnd i x (x :: xs)
      { s with mem := { s.mem with done := s.mem.done.filter fun y => !ownsXfer s i y } }

/-- A finished transfer's state at a boundary (R255). -/
def arriveEntry (i : Nat) (s : Block) : Block :=
  match (entryAt s i).arrive with
  | none => s
  | some (.free, _) => freeEntry i s
  | some (.fault, code) => entryFault i code (modEntry i (fun e => { e with arrive := none }) s)
  | some (st, _) => modEntry i (fun e => { e with state := st, arrive := none }) s

/-- The same for a directory entry. -/
def arriveDir (d : Nat) (s : Block) : Block :=
  let e := dirAt s d
  if !e.ended then s
  else match e.arrive with
    | some .free => freeDir d s
    | some st => setDir d { e with state := st, arrive := none, ended := false } s
    | none => s

/-- Every state that takes effect at this boundary because its transfer has ended. -/
def arrivals (s : Block) : Block :=
  let s := (s.entries.map fun e => e.1).foldl (fun s i => arriveEntry i s) s
  (s.dir.map fun e => e.1).foldl (fun s d => arriveDir d s) s

/-! ## Commands of a scan (R253, R254, R271) -/

/-- Whether scans run: none does outside RUN and THROTTLE, where no step launches (R399). -/
def scansRun (s : Block) : Bool := s.pwr.state = .run || s.pwr.state = .throttle

/-- Whether an entry's CMD word is pending (R253). -/
def cmdPending (s : Block) (i : Nat) : Bool :=
  hCmdSeq (hostWords s i) ≠ (entryAt s i).ackSeq

/-- Whether a pending command can be acted on now (R253). -/
def cmdHeld (s : Block) (i : Nat) : Bool :=
  (entryAt s i).state = .inflight || (entryAt s i).state = .moving

/-- Acknowledge the CMD word of an entry (R253). -/
def ackCmd (i : Nat) (s : Block) : Block :=
  let q := hCmdSeq (hostWords s i)
  modEntry i (fun e => { e with ackSeq := q, overtaken := false }) s

/-- The deadline policy's or a tenant's implicit CANCEL of an entry (R261, R282). -/
def autoCancel (i : Nat) (s : Block) : Block :=
  let e := entryAt s i
  if e.autoCancel && !cmdHeld s i then
    let s := modEntry i (fun e => { e with autoCancel := false }) s
    if e.state = .ready || e.state = .blocked then cancelEntry i s else s
  else s

/-- CHUNK (R266): posted, or refused and counted. -/
def chunkCmd (i : Nat) (s : Block) : Block :=
  let e := entryAt s i
  let h := hostWords s i
  let n := hPchunkN h
  if (e.state = .ready || e.state = .blocked) && !e.refine && 1 ≤ n && n ≤ 512 && hPchunkAddr h % 4 = 0 &&
      e.chunk.isNone && !tenDraining s e.tenant then
    modEntry i (fun e => { e with chunk := some ⟨n, hPchunkAddr h, hPchunkPos0 h⟩ }) s
  else badCmd s

/-- EXPORT (R274). The image holds the state that the entry leaves for MOVING, as that of a spill does (DEDUCED, log entry
141). -/
def exportEntry (i : Nat) (s : Block) : Block :=
  let e := entryAt s i
  let h := hostWords s i
  let s := request true (hXferAddr h) 2048 (entryImage h e ++ histImage e.hist) 4 (some e.tenant)
    (.tenant e.tenant) none (.exportImg i) s
  modEntry i (fun e => { e with state := .moving }) s

/-- PAUSE (R270): the expiry period is kept and compared whole, and word 3 shows its low 32 bits (R271, R403; DEDUCED, log entry
161). -/
def pauseEntry (i : Nat) (s : Block) : Block :=
  match freeDirIdx s with
  | none => spillFull s
  | some d =>
    let ttl := hTtl (hostWords s i)
    spillTo i d .paused (w32 (curPeriod s + ttl)) (if ttl = 0 then none else some (curPeriod s + ttl)) s

/-- The effect of command `c` on an entry in the state it stands in (R254); anything else is counted. -/
def cmdEffect (c i : Nat) (s : Block) : Block :=
  let e := entryAt s i
  let rb := e.state = .ready || e.state = .blocked
  match c with
  | 0x0 => s
  | 0x1 => if e.state = .free then admitEntry i s else badCmd s
  | 0x2 => if e.state = .free then importEntry i s else badCmd s
  | 0x3 => if rb then cancelEntry i s else badCmd s
  | 0x4 => if e.state = .ready then modEntry i (fun e => { e with state := .blocked, blockTime := curCount s }) s
           else badCmd s
  | 0x5 => if e.state = .blocked && !tenDraining s e.tenant then modEntry i (fun e => { e with state := .ready }) s
           else badCmd s
  | 0x6 => if rb then pauseEntry i s else badCmd s
  | 0x7 => chunkCmd i s
  | 0x8 => if rb then exportEntry i s else badCmd s
  | 0x9 => if e.state = .done || e.state = .fault then freeEntry i s else badCmd s
  | 0xA => if e.state = .fault then modEntry i (fun e => { e with state := .ready, efault := 0 }) s else badCmd s
  | _ => badCmd s

/-- Act on the pending command of an entry (R253, R256): a natural stop that overtook CANCEL, PAUSE or EXPORT
leaves it without effect and uncounted. -/
def actCmd (i : Nat) (s : Block) : Block :=
  let c := hCmd (hostWords s i)
  let late := (entryAt s i).overtaken && (entryAt s i).state = .done && (c = 0x3 || c = 0x6 || c = 0x8)
  let s := ackCmd i s
  if late then s else cmdEffect c i s

/-- The same, for a command named by its row: nothing happens unless scans run, exactly that command is pending and its
entry is in a state that does not hold it. -/
def actCmdOf (c : Nat) (i : Nat) (s : Block) : Block :=
  if scansRun s && cmdPending s i && !cmdHeld s i && hCmd (hostWords s i) = c then actCmd i s else s

/-- One entry's turn in step 1 of R255: a CANCEL of the deadline policy or of a draining tenant first, then the command that
is pending, which R253 counts where the entry's state no longer takes it (R261, R282; DEDUCED, log entry 124). -/
def scanEntry (i : Nat) (s : Block) : Block :=
  let s := autoCancel i s
  if cmdPending s i && !cmdHeld s i then actCmd i s else modEntry i (fun e =>
    if cmdHeld s i then e else { e with overtaken := false }) s

/-! Directory commands. -/

/-- Word 0 of a directory entry. -/
def dirCmdWord (s : Block) (d : Nat) : Word := tget zeroWord s.dirHost d

/-- Whether a directory command is pending (R253, R271). -/
def dirPending (s : Block) (d : Nat) : Bool :=
  bits (dirCmdWord s d) 11 4 ≠ (dirAt s d).ackSeq && (dirAt s d).state ≠ .moving

/-- Whether a directory entry holds a spilled request. -/
def spilled (e : DirEntry) : Bool :=
  match e.state with
  | .spReady => true
  | .spBlocked => true
  | .paused => true
  | _ => false

/-- The effect of a directory command (R271). -/
def dirEffect (c d : Nat) (s : Block) : Block :=
  let e := dirAt s d
  match c with
  | 0x3 => if spilled e then endSpilled d 0x04 s else badCmd s
  | 0x4 => if e.state = .spReady then setDir d { e with state := .spBlocked } s else badCmd s
  | 0x5 => if e.state = .spBlocked && !tenDraining s e.tenant then
             setDir d { e with state := .spReady, word3 := w32 (curCount s) } s
           else badCmd s
  | 0x7 => if e.state = .paused && !tenDraining s e.tenant then
             setDir d { e with state := .spReady, word3 := w32 (curCount s) } s
           else badCmd s
  | 0x9 => if spilled e then freeDir d (freePages e.pages s) else badCmd s
  | _ => badCmd s

/-- Act on the pending command of a directory entry. -/
def actDir (d : Nat) (s : Block) : Block :=
  let w := dirCmdWord s d
  dirEffect (bits w 3 0) d (setDir d { dirAt s d with ackSeq := bits w 11 4 } s)

/-- The same, for a command named by its row. -/
def actDirOf (c d : Nat) (s : Block) : Block :=
  if scansRun s && d < spillN s && dirPending s d && bits (dirCmdWord s d) 3 0 = c then actDir d s else s

/-- One directory entry's turn in step 2 of R255. -/
def scanDir (d : Nat) (s : Block) : Block :=
  let e := dirAt s d
  if e.cancel && spilled e then endSpilled d 0x04 (setDir d { e with cancel := false } s)
  else if dirPending s d then actDir d s else s

/-- The implicit CANCELs of the first scan in DRAINING, for one entry (R282). -/
def drainEntry (i : Nat) (s : Block) : Block :=
  let e := entryAt s i
  let held : Block := ackCmd i (modEntry i (fun e => { e with autoCancel := true }) s)
  match e.state with
  | .ready => held
  | .blocked => held
  | .inflight => held
  | .moving => held
  | _ => s

/-- The same for a directory entry. -/
def drainDir (d : Nat) (s : Block) : Block :=
  let e := dirAt s d
  if spilled e then setDir d { e with ackSeq := bits (dirCmdWord s d) 11 4, cancel := true } s else s

/-- R282 for every tenant whose first scan in DRAINING this is. -/
def drainScan (s : Block) : Block :=
  let ns := (s.tenants.map fun t => t.1).filter fun n => tenDraining s n && !(tenantAt s n).cancelsDone
  ns.foldl (fun s n =>
    let s := ((usedEntries s).filter fun i => (entryAt s i).tenant = n).foldl (fun s i => drainEntry i s) s
    let s := ((s.dir.map fun e => e.1).filter fun d => (dirAt s d).tenant = n).foldl (fun s d => drainDir d s) s
    modTenant n (fun t => { t with cancelsDone := true }) s) s

/-! Expiry, fill, eviction, PIN (R255 steps 3 to 5). -/

/-- Whether a PAUSED entry's expiry period has been reached; a TTL of 0 never expires (R270). -/
def expired (s : Block) (d : Nat) : Bool :=
  let e := dirAt s d
  e.state = .paused && (match e.expiry with
    | some p => decide (p ≤ curPeriod s)
    | none => false)

/-- Expire directory entry `d` if it is due. -/
def expireDir (d : Nat) (s : Block) : Block := if expired s d then endSpilled d 0x05 s else s

/-- The same, for the expiry named by its row: it is step 3 of a scan (R255). -/
def expireDirOf (d : Nat) (s : Block) : Block := if scansRun s then expireDir d s else s

/-- Whether a tenant's entries are SP_READY, by directory index with word 3. -/
def waitingDirs (s : Block) : List (Nat × Nat) :=
  (knownDirs s).filterMap fun d => if (dirAt s d).state = .spReady then some ((dirAt s d).word3.toNat, d) else none

/-- Oldest of a list: least first component, ties to the lower index. -/
def oldest : List (Nat × Nat) → Option (Nat × Nat)
  | [] => none
  | x :: l => match oldest l with
    | none => some x
    | some y => if x.1 < y.1 || (x.1 = y.1 && x.2 < y.2) then some x else some y

/-- Lowest FREE resident slot. -/
def freeSlot (s : Block) : Option Nat := (upto 16384).find? fun i => (entryAt s i).state = .free

/-- Up to `n` fills (R272). -/
def fills : Nat → Block → Block
  | 0, s => s
  | n + 1, s => match oldest (waitingDirs s) with
    | none => s
    | some w => match freeSlot s with
      | none => s
      | some i => fills n (fillFrom i w.2 s)

/-- Eviction (R272): one BLOCKED entry with PIN 0, when no slot is FREE and nothing resident runs. -/
def evict (s : Block) : Block :=
  if (waitingDirs s).isEmpty then s
  else
    let all := (upto 16384).all fun i =>
      match (entryAt s i).state with
      | .free => false
      | .ready => false
      | .inflight => false
      | .cancelling => false
      | .moving => false
      | _ => true
    if !all then s
    else match oldest ((usedEntries s).filterMap fun i =>
        let e := entryAt s i
        if e.state = .blocked && e.pin = 0 then some (e.blockTime, i) else none), freeDirIdx s with
      | some v, some d => evictionUp (spillTo v.2 d .spBlocked (dirAt s d).word3 none s)
      | _, _ => s

/-- The scan of R255; `launching` tells step 5. -/
def scan (launching : Bool) (s : Block) : Block :=
  let s := drainScan s
  let s := (knownEntries s).foldl (fun s i => scanEntry i s) s
  let s := (knownDirs s).foldl (fun s d => scanDir d s) s
  let s := (knownDirs s).foldl (fun s d => expireDir d s) s
  let s := evict (fills 16 s)
  if launching then
    (s.entries.map fun e => e.1).foldl (fun s i => modEntry i (fun e => { e with pin := e.pin - 1 }) s) s
  else s

end Sys2Proof.Machine
end

