-- ==== Sys2Proof/Machine/Tenant.lean ====
section
/-! DEFINITION. Tenants at a step boundary (R281 to R285, R290, R299 to R301), charges (R287, R289, R290) and
the fairness order's inputs. -/

namespace Sys2Proof.Machine

/-! ## Charges -/

/-- Charge a tenant's balance (R287): BUDGET rises when it falls to zero or below from above (R289). -/
def charge (n amt : Nat) (s : Block) : Block :=
  let b := (tenantAt s n).balance
  let b' := satI32 (b - amt)
  let s := modTenant n (fun t => { t with balance := b' }) s
  if 0 < b && b' ≤ 0 then irqRaise (.ten n) 1 s else s

/-- STRIDE of a tenant, from the registers a pass captured (R62, R290). -/
def stride (regs : Table Word) (n : Nat) : Nat := 1048576 / bits (rc regs (tpolReg n 0)) 15 8

/-- Raise FAIR by STRIDE times the rows held in the pass that captured `regs` (R290). -/
def fairCharge (regs : Table Word) (n rows : Nat) (s : Block) : Block :=
  let k := stride regs n
  modTenant n (fun t => { t with fair := sat64 (t.fair + k * rows) }) s

/-! ## The boundary -/

/-- Tenant a register address belongs to, if any. -/
def regTenant (a : Nat) : Option Nat :=
  if 0xFC0000 ≤ a && a < 0xFD0000 then some ((a - 0xFC0000) / 0x40)
  else if 0x100000 ≤ a && a < 0x500000 then some ((a - 0x100000) / 0x1000)
  else none

/-- Tenants that differ from a cold reset in any way or have an entry, ascending. -/
def knownTenants (s : Block) : List Nat :=
  ((s.tenants.map fun t => t.1) ++ (s.reg.inForce.filterMap fun r => regTenant r.1) ++
    (usedEntries s).map fun i => (entryAt s i).tenant).foldl (fun l k => insertKey k l) []

/-- Entries of a tenant by state: a test that some entry of it stands so. -/
def anyEntry (s : Block) (n : Nat) (p : EState → Bool) : Bool :=
  (usedEntries s).any fun i => (entryAt s i).tenant = n && p (entryAt s i).state

/-- READY, INFLIGHT or CANCELLING (R290). -/
def competing (st : EState) : Bool :=
  match st with
  | .ready => true
  | .inflight => true
  | .cancelling => true
  | _ => false

/-- READY, INFLIGHT, CANCELLING or MOVING (R281, R283). -/
def working (st : EState) : Bool := competing st || st = .moving

/-- Whether any work of a tenant remains in the table or the spill tier. -/
def tenantBusy (s : Block) (n : Nat) : Bool :=
  anyEntry s n working || (s.dir.any fun d => d.2.tenant = n && d.2.state ≠ .free)

/-- Whether a tenant has rows in a running or parked pass. -/
def tenantInPass (s : Block) (n : Nat) : Bool :=
  (ctxs s).any fun c => c.2.batch.reqs.any fun q => q.tenant = n

/-- F_min (R290): the lowest FAIR among tenants that compete. -/
def fairMin (s : Block) : Option Nat :=
  ((knownTenants s).filter fun n => anyEntry s n competing).foldl
    (fun m n => match m with
      | none => some (tenantAt s n).fair
      | some f => some (min f (tenantAt s n).fair)) none

/-- The state change of a tenant at a boundary (R281, R283): EN in force decides. -/
def tenantTurn (n : Nat) (s : Block) : Block :=
  let en := bit (rf s (tpolReg n 0)) 0
  match (tenantAt s n).state with
  | .dusk => if en then modTenant n (fun t => { t with state := .active }) s else s
  | .active =>
    if en then s
    else if tenantBusy s n then modTenant n (fun t => { t with state := .draining, cancelsDone := false }) s
    else irqRaise (.ten n) 2 (modTenant n (fun t => { t with state := .dusk }) s)
  | .draining =>
    if en then modTenant n (fun t => { t with state := .active }) s
    else if tenantBusy s n || tenantInPass s n then s
    else irqRaise (.ten n) 2 (modTenant n (fun t => { t with state := .dusk }) s)

/-- Balance after the pending grants and `k` periods' refill (R285 steps 1 and 2): the product wraps as a u64 (DEDUCED, log entry
153). -/
def refilled (bal grant : Int) (refill cap k : Nat) : Int :=
  let b := satI32 (bal + grant)
  if k = 0 then b
  else if b < cap then min (cap : Int) (b + (refill * k % 18446744073709551616 : Nat)) else b

/-- Steps 1 and 2 of R285 for a tenant, `k` periods after the last refill. -/
def tenantRefill (k n : Nat) (s : Block) : Block :=
  let refill := (rf s (tpolReg n 4)).toNat
  let cap := (rf s (tpolReg n 8)).toNat
  modTenant n (fun t => { t with balance := refilled t.balance t.grant refill cap k, grant := 0 }) s

/-- The floor of R290 for a tenant: any ACTIVE one that does not compete, which a waking one joins. -/
def tenantFloor (f n : Nat) (s : Block) : Block :=
  if (tenantAt s n).state = .active && !anyEntry s n competing then
    modTenant n (fun t => { t with fair := max t.fair f }) s
  else s

/-- A FAULT_CLEAR takes effect (R299, R300): faults raised since it stand as the first and the later ones. -/
def tenantClear (n : Nat) (s : Block) : Block :=
  if (tenantAt s n).clearPend then
    modTenant n (fun t => { t with
      faultCode := t.sinceCode, faultAddr := t.sinceAddr, faultMore := sat32 (t.sinceN - 1)
      clearPend := false, sinceCode := 0, sinceAddr := 0, sinceN := 0 }) s
  else s

/-- Whether a tenant reset can take effect (R301). -/
def resetReady (s : Block) (n : Nat) : Bool :=
  !tenantInPass s n && (match s.formed with
    | some b => !b.reqs.any fun q => q.tenant = n
    | none => true) &&
  !anyEntry s n (fun st => st = .moving) &&
  !(s.dir.any fun d => d.2.tenant = n && d.2.state = .moving) &&
  !s.mem.xfers.any (fun x => x.write && x.tenant = some n)

/-- The effect of a tenant reset (R301, R302); a tenant that becomes DUSK here raises DUSK (R283). -/
def tenantResetNow (n : Nat) (s : Block) : Block :=
  let s := ((usedEntries s).filter fun i => (entryAt s i).tenant = n).foldl
    (fun s i => ackCmd i (freeEntry i s)) s
  let s := ((s.dir.map fun d => d.1).filter fun d => (dirAt s d).tenant = n && (dirAt s d).state ≠ .free).foldl
    (fun s d =>
      let s := freeDir d (freePages (dirAt s d).pages s)
      setDir d { dirAt s d with ackSeq := bits (dirCmdWord s d) 11 4 } s) s
  let s := { s with reg := { s.reg with
    irq := tset zeroWord s.reg.irq (pageBase (.ten n)) 0
    counts := (upto 4).foldl (fun m k => tset (fun _ => 0) m (ringHeadReg n k) 0) s.reg.counts
    written := (upto 4).foldl (fun m k => tset resetVal m (tenReg n (0x190 + 0x20 * k)) 0) s.reg.written } }
  let f := (fairMin s).getD 0
  let en := bit (rf s (tpolReg n 0)) 0
  let dusk := !en && (tenantAt s n).state ≠ .dusk
  irqRaise (.ten n) 5 ((fun s => if dusk then irqRaise (.ten n) 2 s else s)
    (modTenant n (fun t => { t with
      state := if en then .active else .dusk, fair := f, faultCode := 0, faultAddr := 0, faultMore := 0
      clearPend := false, sinceCode := 0, sinceAddr := 0, sinceN := 0, entryFaults := 0, resetPend := false }) s))

/-- Everything a boundary does to the tenants before the scan (R281, R283, R285, R290, R299, R301). -/
def tenantBoundary (s : Block) : Block :=
  let p := curPeriod s
  let k := match s.lastRefill with
    | some q => p - q
    | none => 0
  let s := (knownTenants s).foldl (fun s n => tenantClear n s) s
  let s := (knownTenants s).foldl (fun s n =>
    if (tenantAt s n).resetPend && resetReady s n then tenantResetNow n s else s) s
  let s := (knownTenants s).foldl (fun s n => tenantTurn n s) s
  let s := (knownTenants s).foldl (fun s n => tenantRefill k n s) s
  let s := match fairMin s with
    | some f => (knownTenants s).foldl (fun s n => tenantFloor f n s) s
    | none => s
  match s.lastRefill with
  | none => { s with lastRefill := some p }
  | some q => if q < p then { s with lastRefill := some p } else s

end Sys2Proof.Machine
end

