-- ==== Sys2Proof/Machine/Form.lean ====
section
/-! DEFINITION. Batch formation (R74 to R76, R155, R183, R219, R258 to R265, R404, R405, R411): which entries a
formation considers, the entry faults it raises, the rank order, the admission checks, the layout with its
padding rows, page allocation, the descriptor, and the undoing of a batch. -/

namespace Sys2Proof.Machine

/-! ## Snapshot of the forming boundary -/

/-- What a formation at this boundary reads (R74). A pass that this boundary's launch pre-empts counts as parked (R83,
R155). -/
def baseNow (step : Nat) (own : Bool) (s : Block) : FormBase :=
  { step := step, refine := match s.launchQ with | l :: _ => l.refine | [] => own
    entries := s.entries, host := s.host, tenants := s.tenants, used := s.used, regs := s.reg.inForce
    count := curCount s, parked := (ctxs s).any (fun c => c.2.parked || c.2.parkReq), penPend := s.epochs.pending.getD 3 false
    penActive := s.epochs.active.getD 3 0, temp := s.pwr.tempHot, bank := s.cfg.active, nArr := s.nArr
    left := s.leftPages, acc := s.pwr.acc, corr := s.pwr.corr, corrCnt := s.pwr.corrCnt
    warn := bits (wr s (reg .pwr 0x0C0)) 7 0 }

/-- Penalty epoch a batch formed in advance expects its pass to capture (R155). -/
def expectedPen (b : FormBase) : Nat := if b.penPend && !b.parked then 1 - b.penActive else b.penActive

/-- Entry of a snapshot. -/
def baseEntry (b : FormBase) (i : Nat) : Entry := tget (fun _ => Entry.freed) b.entries i

/-- Host words of an entry of a snapshot. -/
def baseHost (b : FormBase) (i : Nat) : List Word := (upto 64).map fun k => tget zeroWord b.host (i * 128 + k)

/-- Tenant of a snapshot. -/
def baseTenant (b : FormBase) (n : Nat) : Tenant := tget (fun _ => Tenant.cold) b.tenants n

/-! ## Candidates -/

/-- An entry under consideration. -/
structure Cand where
  i     : Nat
  e     : Entry
  h     : List Word
  kind  : Nat
  d     : Nat
  /-- Rows it would contribute, as position, slot and unconditional, in order. -/
  rows  : List (Nat × Nat × Bool)
  need  : Nat
  fault : Option Nat
  deriving DecidableEq, Repr

/-- Kind of an entry's rows: 0 generation, 1 prompt chunk, 2 refine (R265, R266). -/
def rowKind (e : Entry) : Nat := if e.refine then 2 else if e.chunk.isSome then 1 else 0

/-- Rows of an entry in position order, slot order, guidance pairs conditional first (R76 step 5, R156, R222,
R266, R210). -/
def ownRows (kind d : Nat) (h : List Word) (e : Entry) : List (Nat × Nat × Bool) :=
  let base : List (Nat × Nat) := match kind with
    | 0 => (upto (d + 1)).map fun j => ((e.len + j) % 4294967296, j)
    | 1 => match e.chunk with
      | some c => (upto c.n).map fun m => ((c.pos0 + m) % 4294967296, 0)
      | none => []
    | _ => (upto e.refP).map fun p => (p, 0)
  base.flatMap fun p =>
    if hGuideEn h && kind ≠ 1 then [(p.1, p.2, false), (p.1, p.2, true)] else [(p.1, p.2, false)]

/-- The sampling fields break R182 or R183. -/
def samplingBad (h : List Word) (e : Entry) : Bool :=
  hCandK h < 16 || 4096 < hCandK h || hCandK h < hTopK h ||
  (hTopPEn h && !(fpos (hTopP h) && flt (hTopP h) fone)) ||
  (hMinPEn h && !(fpos (hMinP h) && fle (hMinP h) fone)) ||
  (e.refine && (e.refP = 0 || 8192 < e.refP || e.refT = 0 || 256 < e.refT ||
    decide (8192 < e.refP * (1 + b2n (hGuideEn h)))))

/-- The scoring fields break R155; `pen` is the penalty epoch expected, `d` the depth, `sharded` the pass. -/
def scoringBad (st : Stores) (pen d : Nat) (sharded : Bool) (h : List Word) (e : Entry) : Bool :=
  !ffinite (hGuideS h) || (!hTempMode h && !fposNormal (hInvTemp h)) ||
  (hAutoEn h && (e.mask.xw = 0 || e.mask.yh = 0)) || (hPenEn h && !penOk st pen (hPenSet h)) ||
  (hAutoEn h && decide (0 < d) && sharded)

/-- The draft fields break R219. -/
def draftBad (regs : Table Word) (h : List Word) (e : Entry) : Bool :=
  let g := govTab regs (hGovTbl h)
  hSpecEn h && (e.refine || e.depthInit < g.dMin || g.dMax < e.depthInit || hDraftAddr h % 64 ≠ 0)

/-- The output fields break R219. -/
def outputBad (regs : Table Word) (h : List Word) (t : Nat) : Bool :=
  !bit (rc regs (tenReg t (0x180 + 0x20 * hRing h))) 0 || (hPcodeEn h && hPcodeAddr h % 64 ≠ 0)

/-- The adapter fields break R124. -/
def adapterBad (regs : Table Word) (hid : Nat) (h : List Word) (t : Nat) : Bool :=
  let a := adpDesc regs t (hAdpSlot h)
  hAdpEn h && (!a.en || decide (8388608 < adpBytes (adpFmt a.fmt) a.r hid))

/-- Pages that cover the positions an entry's rows need (R262, R263). -/
def pagesFor (shift kind d : Nat) (e : Entry) : Nat :=
  let top := match kind with
    | 0 => e.len + d + 1
    | 1 => match e.chunk with
      | some c => c.pos0 + c.n
      | none => 0
    | _ => 0
  (top + 2 ^ shift - 1) / 2 ^ shift

/-- Row limit of a mode (R25, R32). -/
def rowLimit (refine : Bool) : Nat := if refine then 8192 else 512

/-- Heap entries of a pass context (R31). -/
def heapLimit : Nat := 2097152

/-- The entry faults a formation finds, lowest code first (R258). -/
def formFault (s : Block) (b : FormBase) (pen : Nat) (c : Cand) (rem : Nat) : Option Nat :=
  let h := c.h
  let t := c.e.tenant
  let pages := pagesFor (bits (rc b.regs (reg .req 0x084)) 3 0) c.kind c.d c.e
  if rowLimit c.e.refine < c.rows.length || heapLimit < c.rows.length * hCandK h then some efRows
  else if adapterBad b.regs (bankH s b.bank) h t then some efAdapter
  else if scoringBad s.stores pen c.d (shardsOf s b.bank ≠ 1) h c.e then some efScoring
  else if samplingBad h c.e || (c.kind ≠ 2 && rem = 0) then some efSampling
  else if draftBad b.regs h c.e then some efDraft
  else if outputBad b.regs h t then some efOutput
  else if c.kind ≠ 2 && decide (bits (rc b.regs (reg .req 0x080)) 20 0 < max pages c.e.pages.length) then
    some efPages
  else none

/-- Steps 1 and 2 of R76 for an entry: none when it is dropped from consideration. -/
def consider (s : Block) (b : FormBase) (refine : Bool) (pen i : Nat) : Option Cand :=
  let e := baseEntry b i
  let h := baseHost b i
  let t := baseTenant b e.tenant
  let canc := e.state = .cancelling
  if !((e.state = .ready || canc) && e.refine = refine && (entryAt s i).state = e.state) then none
  else if t.faultCode ≠ 0 || t.resetPend || !(t.state = .active || (canc && t.state = .draining)) then none
  else
    let kind := rowKind e
    let cap := bits (rc b.regs (reg .req 0x08C)) 15 0
    let rem := remainingOf cap canc h e
    let d := if kind = 0 then depthOf cap canc h e else 0
    if t.balance < 1 + d then none
    else
      let rows := ownRows kind d h e
      let pages := pagesFor (bits (rc b.regs (reg .req 0x084)) 3 0) kind d e
      let c : Cand := { i := i, e := e, h := h, kind := kind, d := d, rows := rows
                        need := pages - e.pages.length, fault := none }
      some { c with fault := formFault s b pen c rem }

/-! ## Rank order (R259) -/

/-- Signed 64-bit difference. -/
def diff64 (a b : Nat) : Int :=
  let d := (a + 18446744073709551616 - b % 18446744073709551616) % 18446744073709551616
  if d < 9223372036854775808 then d else (d : Int) - 18446744073709551616

/-- The ranking keys of a candidate, least first. -/
def rankKey (b : FormBase) (c : Cand) : List Nat :=
  let dl := hDeadline c.h
  let urgent := dl ≠ 0 && decide (diff64 dl b.count ≤ ((rc b.regs (reg .req 0x094)).toNat : Int))
  [b2n (c.e.state = .cancelling), b2n !urgent, 15 - hPrio c.h,
   if urgent then dl else (baseTenant b c.e.tenant).fair, c.i]

/-- Lexicographic order of keys. -/
def keyLt : List Nat → List Nat → Bool
  | x :: xs, y :: ys => if x < y then true else if y < x then false else keyLt xs ys
  | _, _ => false

/-- Insert a candidate at its rank. -/
def rankCand (b : FormBase) (c : Cand) : List Cand → List Cand
  | [] => [c]
  | d :: l => if keyLt (rankKey b c) (rankKey b d) then c :: d :: l else d :: rankCand b c l

/-! ## Admission checks (R76 step 4) -/

/-- Candidates in ascending entry index. -/
def byIndex (c : Cand) : List Cand → List Cand
  | [] => [c]
  | d :: l => if c.i < d.i then c :: d :: l else d :: byIndex c l

/-- Whether a candidate's rows are guidance pairs. -/
def paired (c : Cand) : Bool := hGuideEn c.h && c.kind ≠ 1

/-- Rows of a layout with its padding rows (R76 step 5). -/
def layoutLen : List Cand → Nat → Nat
  | [], n => n
  | c :: l, n => layoutLen l (n + (if paired c then n % 2 else 0) + c.rows.length)

/-- Energy class of a candidate's rows (R404). -/
def energyClass (c : Cand) : Nat := if hAdpEn c.h then 3 else c.kind

/-- Add `n` at place `k` of a list of four. -/
def addAt (l : List Nat) (k n : Nat) : List Nat := l.mapIdx fun i x => if i = k then x + n else x

/-- Predicted energy of rows per class under the costs `regs` and the learned corrections (R404). -/
def energySum (regs : Table Word) (corr corrCnt : List Nat) (ns : List Nat) : Nat :=
  (upto 4).foldl (fun e c =>
    let k := if corrCnt.getD c 0 < 8 then 4096 else corr.getD c 4096
    e + ns.getD c 0 * (rc regs (reg .pwr (0x08C + 4 * c))).toNat * k / 4096) 0

/-- Predicted energy of rows per class at a forming boundary (R404). -/
def energyOf (b : FormBase) (ns : List Nat) : Nat := energySum b.regs b.corr b.corrCnt ns

/-- E_raw of R404. -/
def energyRaw (regs : Table Word) (ns : List Nat) : Nat :=
  (upto 4).foldl (fun e c => e + ns.getD c 0 * (rc regs (reg .pwr (0x08C + 4 * c))).toNat) 0

/-- What step 4 has admitted so far, in rank order. -/
structure Admitted where
  cands : List Cand
  heap  : Nat
  pages : Nat
  ns    : List Nat
  deriving DecidableEq, Repr

/-- Free pages of a snapshot that its formation may take (R263). -/
def available (b : FormBase) : Nat := bits (rc b.regs (reg .req 0x080)) 20 0 - b.used.length - b.left

/-- Whether a candidate passes the checks of step 4 beside those admitted. Padding rows count among the rows of R411 as among those of
the row limit (R76; DEDUCED, log entry 167). -/
def admits (b : FormBase) (refine : Bool) (a : Admitted) (c : Cand) : Bool :=
  let rows := layoutLen ((c :: a.cands).foldl (fun l c => byIndex c l) []) 0
  let ns := addAt a.ns (energyClass c) c.rows.length
  let fixed := bit (rc b.regs (reg .sch 0x008)) 1
  let budget := (rc b.regs (reg .pwr 0x088)).toNat
  decide (rows ≤ rowLimit refine) && decide (a.heap + c.rows.length * hCandK c.h ≤ heapLimit) &&
  (c.need = 0 || decide (a.pages + c.need ≤ available b)) &&
  (fixed || budget = 0 || decide (b.acc + energyOf b ns ≤ budget * 1000)) &&
  (fixed || decide (b.temp < b.warn) ||
    decide (rows ≤ bits (rc b.regs (reg .pwr 0x0C4)) 13 0))

/-- Step 4 over the ranked candidates. -/
def admitAll (b : FormBase) (refine : Bool) (cs : List Cand) : Admitted :=
  cs.foldl (fun a c =>
    if admits b refine a c then
      { cands := a.cands ++ [c], heap := a.heap + c.rows.length * hCandK c.h, pages := a.pages + c.need
        ns := addAt a.ns (energyClass c) c.rows.length }
    else a) ⟨[], 0, 0, [0, 0, 0, 0]⟩

/-! ## Layout and descriptor (R76 step 5, R265) -/

/-- A padding row (R76). -/
def padRow : BRow := { entry := none, pos := 0, slot := 0, kind := 3, uncond := false }

/-- Rows of the batch. -/
def layout : List Cand → List BRow → List BRow
  | [], rows => rows
  | c :: l, rows =>
    let pad := if paired c && rows.length % 2 = 1 then [padRow] else []
    layout l (rows ++ pad ++ c.rows.map fun r =>
      { entry := some c.i, pos := r.1, slot := r.2.1, kind := c.kind, uncond := r.2.2 })

/-- A request of the batch. -/
def breqOfCand (c : Cand) : BReq :=
  { entry := c.i, tenant := c.e.tenant, reqId := c.e.reqId, host := c.h, dstep := c.d, kind := c.kind
    prev := c.e.state, rows := c.rows.length, chunk := c.e.chunk, refP := c.e.refP, refT := c.e.refT
    late := false }

/-- The 16 bytes of a row in the descriptor (R265). -/
def rowBytes (reqs : List BReq) (r : BRow) : List Byte :=
  match r.entry with
  | none => leBytes 2 0xFFFF ++ zeros 11 ++ leBytes 1 3 ++ zeros 2
  | some i =>
    let q := reqs.find? fun q => q.entry = i
    let t := match q with | some q => q.tenant | none => 0
    let id := match q with | some q => q.reqId | none => 0
    leBytes 2 i ++ leBytes 2 t ++ leBytes 4 id ++ leBytes 4 r.pos ++ leBytes 1 r.slot ++
      leBytes 1 (r.kind + 4 * b2n r.uncond) ++ zeros 2

/-- Address of the descriptor slot of a sequence number. -/
def descSlot (rd : Nat → Word) (seq : Nat) : Nat := pairAt rd (reg .req 0x098) + seq % 2 * 0x40000

/-- The 64 bytes of a descriptor header (R265). -/
def headBytes (b : Batch) (step : Nat) : List Byte :=
  leBytes 4 b.seq ++ leBytes 1 (b2n b.refine) ++ zeros 1 ++ leBytes 2 b.rows.length ++ leBytes 8 step ++ zeros 48

/-- Batch of a sequence number that is waiting or running, with its step number once launched. -/
def batchOf (s : Block) (seq : Nat) : Option (Batch × Nat) :=
  match s.formed with
  | some b => if b.seq = seq then some (b, 0) else
    ((ctxs s).find? fun c => c.2.batch.seq = seq).map fun c => (c.2.batch, c.2.num)
  | none => ((ctxs s).find? fun c => c.2.batch.seq = seq).map fun c => (c.2.batch, c.2.num)

/-- Whether page numbers of the requests of batch `seq` are still to be written (R262). -/
def pagesOut (s : Block) (seq : Nat) : Bool :=
  match batchOf s seq with
  | none => false
  | some b => s.mem.xfers.any fun x => match x.purpose with
    | .pageList i => b.1.reqs.any fun q => q.entry = i
    | _ => false

/-- Write a descriptor's header (R265); a batch that is gone by then is left without one, its slot being overwritten by the
next formation (R75; DEDUCED, log entry 140). -/
def writeHead (seq : Nat) (s : Block) : Block :=
  match batchOf s seq with
  | none => s
  | some b => request true (descSlot (rf s) seq) 64 (headBytes b.1 b.2) 3 none .system none (.descHead seq) s

/-- Publish a batch's descriptor: the row list, and the header after its OKAY and those of the page numbers (R262,
R265). -/
def writeDesc (b : Batch) (s : Block) : Block :=
  if b.rows.isEmpty then writeHead b.seq s
  else request true (descSlot (rf s) b.seq + 64) (16 * b.rows.length) (b.rows.flatMap (rowBytes b.reqs)) 3 none
    .system none (.descRows b.seq) s

/-! ## Pages (R262, R263) -/

/-- The lowest `n` page numbers from `k` on that are not in use. -/
def pickPages (used : List Nat) : Nat → Nat → Nat → List Nat
  | 0, _, _ => []
  | fuel + 1, k, n =>
    if n = 0 then []
    else if used.contains k then pickPages used fuel (k + 1) n
    else k :: pickPages used fuel (k + 1) (n - 1)

/-- Allocate the pages a candidate needs, lowest first among those free since the forming boundary, and publish their
numbers (R22, R262). -/
def allocPages (b : FormBase) (c : Cand) (s : Block) : Block :=
  if c.need = 0 then s
  else
    let held := s.used ++ b.used
    let ps := pickPages held (held.length + c.need) 0 c.need
    let first := (entryAt s c.i).pages.length
    let s := modEntry c.i (fun e => { e with pages := e.pages ++ ps }) { s with used := s.used ++ ps }
    request true (hPlistAddr c.h + 4 * first) (4 * c.need) (ps.flatMap (leBytes 4)) 3 (some c.e.tenant)
      (.tenant c.e.tenant) none (.pageList c.i) s

/-! ## Formation -/

/-- The account takes the period of a forming boundary that lies in a later one (R405). -/
def accountPeriod (p : Nat) (s : Block) : Block :=
  if s.pwr.accPeriod < p then { s with pwr := { s.pwr with acc := 0, accPeriod := p } } else s

/-- Form a batch from a snapshot (R76); it becomes the batch formed. Nothing it decides reads what has changed since the
forming boundary (R22). -/
def formBatch (refine : Bool) (b : FormBase) (pen : Nat) (s : Block) : Block :=
  let cs := (b.entries.map fun e => e.1).filterMap fun i => consider s b refine pen i
  let bad := cs.filter fun c => c.fault.isSome
  let good := (cs.filter fun c => c.fault.isNone).foldl (fun l c => rankCand b c l) []
  let a := admitAll b refine good
  let s := bad.foldl (fun s c => entryFault c.i (c.fault.getD 0) s) s
  let s := a.cands.foldl (fun s c => allocPages b c s) s
  let cs := a.cands.foldl (fun l c => byIndex c l) []
  let s := cs.foldl (fun s c => modEntry c.i (fun e => { e with state := .inflight }) s) s
  let e := energyOf b a.ns
  let batch : Batch :=
    { seq := (s.batchSeq + 1) % 4294967296, refine := refine, reqs := cs.map breqOfCand, rows := layout cs []
      energy := e, eraw := energyRaw b.regs a.ns, classN := a.ns, period := s.pwr.accPeriod, penEpoch := pen }
  let s := { s with batchSeq := batch.seq, formed := some batch, pwr := { s.pwr with acc := s.pwr.acc + e } }
  writeDesc batch s

/-- Return a batch's requests to the state they held before it was formed (R72, R75, R252). -/
def unform (b : Batch) (s : Block) : Block :=
  b.reqs.foldl (fun s q => modEntry q.entry (fun e =>
    if e.state = .inflight then { e with state := q.prev } else e) s) s

/-- Discard the batch formed in advance (R75): its energy goes back to the account it was added to. -/
def discardFormed (s : Block) : Block :=
  match s.formed with
  | none => s
  | some b =>
    let s := unform b { s with formed := none }
    if s.pwr.accPeriod = b.period then { s with pwr := { s.pwr with acc := s.pwr.acc - b.energy } } else s

/-- Whether the step whose boundary a snapshot is has reached stage 5 of R22: its pass is in its tiles or past
them, or has ended (a step that ends without reaching stage 5 leaves no snapshot). -/
def stageFive (s : Block) (b : FormBase) : Bool :=
  match (ctxs s).find? fun c => c.2.num = b.step with
  | some c => match c.2.phase with
    | .launching => false
    | .guard => false
    | .prologue => decide (0 < c.2.chunk) || decide (c.2.ex.round ≠ 0)
    | _ => true
  | none => true

/-- Whether a formation in advance is under way and unfinished (R74). -/
def formingNow (s : Block) : Bool :=
  match s.forming with
  | some b => stageFive s b
  | none => false

/-- BATCH_FORM (R22, R74): form the next batch from the snapshot of the step launched last, once, from its stage 5
on. -/
def batchForm (s : Block) : Block :=
  match s.forming with
  | none => s
  | some b =>
    if s.formed.isSome || s.fault || !stageFive s b then s
    else
      let s := formBatch b.refine b (expectedPen b) { s with forming := none }
      { s with reg := { s.reg with stale := false } }

end Sys2Proof.Machine
end

