-- ==== Sys2Proof/Machine/Window.lean ====
section
/-! DEFINITION. Plain register writes and the table windows (R12, R15, R17, R144, R178, R251, R271, R278, R280,
R447, R469 to R473): what a word written to a window does and what a word read from it shows. -/

namespace Sys2Proof.Machine

/-- Write an RW or RW-step register: masked, ranged, or refused in part or whole (R12, R17). -/
def rwWrite (a : Nat) (w : Word) (s : Block) : Block × Bool :=
  match rwDef a with
  | none => (s, false)
  | some d =>
    let r := d.merge (wr s) (wr s a) w
    (setWr a r.1 s, r.2)

/-- Mark the batch formed in advance as stale (R75, R279). -/
def markStale (s : Block) : Block := { s with reg := { s.reg with stale := true } }

/-- Replace the table stores. -/
def setStores (f : Stores → Stores) (s : Block) : Block := { s with stores := f s.stores }

/-! Locks (R144, R178, R447, R473). -/

/-- Whether a check that names switched store `k` is in progress (MASK, AUTO, BIAS, PEN, PROG, FREQ). -/
def storeChecking (s : Block) (k : Nat) : Bool :=
  if k = 4 then s.epochs.progCheck else if k = 5 then s.epochs.freqCheck
  else s.epochs.selChecks.any fun c => c.getD k false

/-- Whether epoch `e` of switched store `k` may not be written. -/
def epochLocked (s : Block) (k e : Nat) : Bool :=
  e = s.epochs.active.getD k 0 || s.epochs.pending.getD k false || storeChecking s k

/-- Whether a configuration view may not be written: 0 the active bank, 1 the idle one. -/
def bankLocked (s : Block) (view : Nat) : Bool :=
  view = 0 || s.cfg.pending || s.cfg.wdOpen || s.cfg.checking || s.cfg.rolling

/-- Write a word of a switched store, or flag the locked write on its page. -/
def storeWrite (k e : Nat) (p : Page) (f : Block → Block) (s : Block) : Block :=
  if epochLocked s k e then flagRaise p (if p = .sfu then 1 else 0) s else f s

/-- GRANT (R280): the value adds to the pending sum. -/
def grantAdd (n : Nat) (w : Word) (s : Block) : Block :=
  modTenant n (fun t => { t with grant := satI32 (t.grant + w.toInt) }) s

/-- A word of a policy record (R278, R279, R280): a word that is out of range is ignored whole, and words 8 to 15 take
nothing; neither counts as a write of R75 (log entry 25). -/
def policyWrite (off : Nat) (w : Word) (s : Block) : Block :=
  let n := off / 0x40
  if off % 0x40 = 0x0C then grantAdd n w (markStale s)
  else if (rwDef (0xFC0000 + off)).isNone then s
  else
    let r := rwWrite (0xFC0000 + off) w s
    if r.2 then flagRaise (.ten n) 4 r.1 else markStale r.1

/-- A word of the configuration window (R447): the first write of the idle bank clears IDLE_VALID. -/
def bankWrite (off : Nat) (w : Word) (s : Block) : Block :=
  let view := off / 0x100000
  let k := off % 0x100000 / 4
  if bankLocked s view then flagRaise .cfg 11 s
  else
    let s := { s with cfg := { s.cfg with idleValid := false } }
    if s.cfg.active = 0 then setStores (fun t => { t with bank1 := tset zeroWord t.bank1 k w }) s
    else setStores (fun t => { t with bank0 := tset zeroWord t.bank0 k w }) s

/-! Places of the table stores that take a written value; reserved ones read as zero (R12). A register field that an
instruction does not use is no reserved place: it is ignored (R141; DEDUCED, log entry 80). -/

/-- Bits of K that an instruction word defines (R141): all for LDC, the word index for CVU, else none. -/
def constMask (w : Word) : Word :=
  if bits w 31 26 = 0x07 then 0xFF else if bits w 31 26 = 0x09 then 3 else 0

/-- Word `w` of the micro-program store at place `k` (R139, R141). -/
def progMask (k : Nat) (w : Word) : Word :=
  let n := k % 32768
  if n < 2 then 0xFFFF else if n < 256 then 0 else if n < 512 then 0xFFFFFFFF else 0xFFFFFF00 ||| constMask w

/-- A word of the frequency tables (R148). -/
def freqMask (k : Nat) : Word :=
  match k % 1024 with
  | 0 => 0x3FFFFFFF
  | 1 => 0x7
  | 2 => 0
  | 3 => 0
  | _ => 0xFFFFFFFF

/-- A word of the penalty sets (R160). -/
def penMask (k : Nat) : Word := if k % 8 < 4 then 0xFFFFFFFF else 0

/-- A word of the bias tables (R166). -/
def biasMask (k : Nat) : Word := if k % 2 = 0 then 0x803FFFFF else 0xFFFFFFFF

/-- A word of the automaton tables (R171). -/
def autoMask (k : Nat) : Word := if k % 32 < 26 then 0xFFFFFFFF else 0

/-- Apply a word to a table window (R12, R472). -/
def winWrite (win : Win) (off : Nat) (w : Word) (s : Block) : Block :=
  let k := off / 4
  match win with
  | .reqTable =>
    if off % 512 < 256 then { s with host := tset zeroWord s.host k (w &&& hostMask (off % 512 / 4)) }
    else flagRaise .req 0 s
  | .bitmaps => storeWrite 0 (off / 0x200000) .sel
      (setStores fun t => { t with bitmaps := tset zeroWord t.bitmaps k w }) s
  | .automata => storeWrite 1 (off / 0x80000) .sel
      (setStores fun t => { t with automata := tset zeroWord t.automata k (w &&& autoMask k) }) s
  | .bias => storeWrite 2 (off / 0x80000) .sel
      (setStores fun t => { t with bias := tset zeroWord t.bias k (w &&& biasMask k) }) s
  | .penalty => storeWrite 3 (off / 0x2000) .sel
      (setStores fun t => { t with penalty := tset zeroWord t.penalty k (w &&& penMask k) }) s
  | .config => bankWrite off w s
  | .prog => storeWrite 4 (off / 0x20000) .sfu
      (setStores fun t => { t with prog := tset zeroWord t.prog k (w &&& progMask k w) }) s
  | .freq => storeWrite 5 (off / 0x20000) .sfu
      (setStores fun t => { t with freq := tset zeroWord t.freq k (w &&& freqMask k) }) s
  | .dir =>
    if spillN s ≤ off / 16 then s
    else if off % 16 = 0 then { s with dirHost := tset zeroWord s.dirHost (off / 16) (w &&& dirMask) }
    else flagRaise .req 0 s
  | .policy => policyWrite off w s
  | .repair => setStores (fun t => { t with repair := tset zeroWord t.repair k w }) s

/-- Words 0 to 3 of a directory entry (R271). -/
def dirWord (s : Block) (d k : Nat) : Word :=
  let e := dirAt s d
  match k with
  | 0 => dirCmdWord s d
  | 1 => w32 (estateCode e.state + e.ackSeq * 2 ^ 4 + e.tenant * 2 ^ 12)
  | 2 => w32 e.reqId
  | _ => e.word3

/-- Whether the header of a bank gives a length that an image can have (R444, R446). -/
def lengthOk (n : Nat) : Bool := decide (0x40000 ≤ n) && decide (n ≤ 0x100000) && decide (n % 64 = 0)

/-- The word that a bank shows: zero at and above the LENGTH of its image (R445). Until its header gives a length that an image can
have, the bank shows what was written (DEDUCED, log entry 174). -/
def bankShown (s : Block) (b off : Nat) : Word :=
  let n := (bankWord s b 0x10).toNat
  if lengthOk n && decide (n ≤ off) then 0 else bankWord s b off

/-- What a table window reads (R447, R469, R471). -/
def winRead (win : Win) (off : Nat) (s : Block) : Word :=
  let k := off / 4
  match win with
  | .reqTable =>
    if off % 512 < 256 then tget zeroWord s.host (off / 512 * 128 + off % 512 / 4)
    else blockWord (hostWords s (off / 512)) (entryAt s (off / 512)) (off % 512 / 4)
  | .bitmaps => tget zeroWord s.stores.bitmaps k
  | .automata => tget zeroWord s.stores.automata k
  | .bias => tget zeroWord s.stores.bias k
  | .penalty => tget zeroWord s.stores.penalty k
  | .config => bankShown s (if off < 0x100000 then s.cfg.active else 1 - s.cfg.active) (off % 0x100000)
  | .prog => tget zeroWord s.stores.prog k
  | .freq => tget zeroWord s.stores.freq k
  | .dir => if spillN s ≤ off / 16 then 0 else dirWord s (off / 16) (off % 16 / 4)
  | .policy => if off % 0x40 = 0x0C then 0 else wr s (0xFC0000 + off)
  | .repair => tget zeroWord s.stores.repair k

/-- How the windows answer as a whole (R437, R438, R469, R474): 0 accept, 1 ERROR by the gate, 2 HOLD. -/
def winGate (win : Win) (s : Block) : Nat :=
  if s.sramInit then 2
  else if !s.cfg.repairDone && win ≠ .repair then 1
  else match winOwner win with
    | some p =>
      match s.reg.gates.find? fun g => g.1 = pageBase p with
      | some g => if g.2 = .gated || g.2 = .wakePending then 1 else 0
      | none => 0
    | none => 0

end Sys2Proof.Machine
end

