-- ==== Sys2Proof/Machine/ConfigCtl.lean ====
section
/-! DEFINITION. The configuration controller (R442 to R453), the table epochs (R144 to R146, R178, R179) and the
array repairs (R118, R121). -/

namespace Sys2Proof.Machine

/-! ## Image check (R446) -/

/-- First nonzero byte of a word store in `[lo, hi)`, as a byte offset; both bounds are multiples of four. -/
def firstByte (t : Table Word) (lo hi : Nat) : Option Nat :=
  match t.find? fun e => lo ≤ 4 * e.1 && 4 * e.1 < hi && e.2 ≠ 0 with
  | some e =>
    some (4 * e.1 + (if bits e.2 7 0 ≠ 0 then 0 else if bits e.2 15 8 ≠ 0 then 1
      else if bits e.2 23 16 ≠ 0 then 2 else 3))
  | none => none

/-- First byte of a word at `off` that a mask covers and that is not zero there. -/
def maskedByte (t : Table Word) (off : Nat) (mask : Word) : Option Nat :=
  let w := tget zeroWord t (off / 4) &&& mask
  ((upto 4).find? fun i => bits w (8 * i + 7) (8 * i) ≠ 0).map fun i => off + i

/-- Reserved places of a header outside whole reserved words: bytes 9 to 11 (R444). -/
def headerBad (t : Table Word) : Option Nat :=
  let wd (k : Nat) := tget zeroWord t k
  if wd 0 ≠ 0x43344749 then some 0
  else if bits (wd 1) 15 0 ≠ 1 then some 4
  else match maskedByte t 8 0xFFFFFF00 with
    | some b => some b
    | none => firstByte t 28 60

/-- Gain bytes of an image are finite BF16 values and zero above them (R97, R446). -/
def gainBad (t : Table Word) (h : Nat) : Bool :=
  t.any fun e =>
    (0x10000 ≤ 4 * e.1 && 4 * e.1 < 0x10000 + 2 * h) &&
      (bits e.2 14 7 = 0xFF || bits e.2 30 23 = 0xFF) ||
    (0x10000 + 2 * h ≤ 4 * e.1 && 4 * e.1 < 0x20000) && e.2 ≠ 0

/-- R97 on an image's words: an epsilon of −0 is not negative (DEDUCED, log entry 117). -/
def headBad (t : Table Word) : Bool :=
  let g := tget zeroWord t 16
  let v := bits (tget zeroWord t 17) 18 0
  let eps := tget zeroWord t 20
  8 < bits g 12 9 || bits g 8 0 < 8 || 256 < bits g 8 0 || v = 0 || 262144 < v || !ffinite eps ||
  (bit eps 31 && bits eps 30 0 ≠ 0) || gainBad t (64 * bits g 8 0)

/-- R306 on an image's words. -/
def groupBad (t : Table Word) : Bool :=
  let g := tget zeroWord t 32
  let shards := bits g 15 8 + 1
  let v := bits (tget zeroWord t 17) 18 0
  let base := bits (tget zeroWord t 34) 21 0
  let all := bits (tget zeroWord t 35) 22 0
  shards ≤ bits g 7 0 || 4194304 < all || all < base + v || (shards = 1 && (base ≠ 0 || all ≠ v))

/-- Bytes of stop sequence `k` of the image: set k / 8, sequence k mod 8 (R234). -/
def stopBytes (t : Table Word) (k : Nat) : List Byte := storeBytes t ((0x20000 + k * 0x40) / 4) 16

/-- R234 on one sequence. -/
def stopBad (t : Table Word) (k : Nat) : Bool :=
  let bs := stopBytes t k
  let n := numAt bs 0 1
  decide (16 < n) || (upto n).any fun m => decide (2 ^ 22 ≤ numAt bs (4 + 3 * m) 3)

/-- Sequences of the image that hold anything, ascending. -/
def stopKeys (t : Table Word) : List Nat :=
  (t.filterMap fun e =>
    if 0x20000 ≤ 4 * e.1 && 4 * e.1 < 0x40000 then some ((4 * e.1 - 0x20000) / 0x40) else none).foldl
    (fun l k => insertKey k l) []

/-- Reserved places of the head and group words by mask (R96, R341, R444). -/
def reservedMasks : List (Nat × Word) :=
  [(0x08, 0xF0), (0x40, 0xFFFFE000), (0x44, 0xFFF80000), (0x48, 0x3F), (0x4C, 0xFFFF0000), (0x80, 0xFFFF0000),
   (0x84, 0xFFF00000), (0x88, 0xFFC00000), (0x8C, 0xFF800000)]

/-- Reserved bytes of one stop sequence that are not zero (R234). -/
def stopReserved (t : Table Word) (k : Nat) : Option Nat :=
  let a := 0x20000 + k * 0x40
  match maskedByte t a 0xFFFFFF00 with
  | some b => some b
  | none => firstByte t (a + 52) (a + 64)

/-- Lowest of some offsets. -/
def least (l : List (Option Nat)) : Option Nat :=
  l.foldl (fun m x => match m, x with
    | none, y => y
    | some a, some b => some (min a b)
    | some a, none => some a) none

/-- First reserved byte of an image that is not zero (R446). -/
def reservedBad (t : Table Word) (len : Nat) : Option Nat :=
  least ((reservedMasks.map fun m => maskedByte t m.1 m.2) ++
    [firstByte t 0x54 0x80, firstByte t 0x90 0x10000, firstByte t 0x40000 len] ++
    (stopKeys t).map (stopReserved t))

/-- CRC of an image (R444). -/
def imageCrc (t : Table Word) (len : Nat) : Word :=
  crc32 (storeBytes t 0 15 ++ storeBytes t 16 ((len - 64) / 4))

/-- The check of R446: code and detail of the first failing check; a detail of none is not given. -/
def imageCheck (g : Grade) (t : Table Word) : Option (Nat × Option Nat) :=
  let wd (k : Nat) := tget zeroWord t k
  let len := (wd 4).toNat
  match headerBad t with
  | some b => some (0x01, some b)
  | none =>
    if bits (wd 1) 23 16 ≠ 4 || bits (wd 1) 31 24 ≠ 2 || bits (wd 2) 3 0 ≠ (if g = .x4 then 4 else 2) then
      some (0x02, none)
    else if !lengthOk len then some (0x03, none)
    else
      let t := tclear t (len / 4) 262144
      if imageCrc t len ≠ wd 15 then some (0x04, none)
      else if wd 3 = 0 then some (0x05, none)
      else if headBad t then some (0x06, none)
      else if groupBad t then some (0x07, none)
      else match (stopKeys t).find? fun k => stopBad t k with
        | some k => some (0x08, some k)
        | none => match reservedBad t len with
          | some b => some (0x09, some (b / 64))
          | none => none

/-! ## Switch and rollback (R448 to R450) -/

/-- CFG.REFUSE: where no detail is given the field takes a free value (log entry 1). -/
def setRefuse (code : Nat) (detail : Option Nat) (s : Block) : Block :=
  match detail with
  | some d => { s with cfg := { s.cfg with refuseCode := code, refuseDetail := d % 65536 } }
  | none =>
    { s with cfg := { s.cfg with refuseCode := code, refuseDetail := bits (Config.freeWord s.fresh) 15 0 }
             fresh := s.fresh + 1 }

/-- A request for the banks is ignored now (R448). -/
def bankBusy (s : Block) : Bool := s.cfg.pending || s.cfg.checking || s.cfg.rolling

/-- SWITCH (R448). -/
def bankSwitchReq (s : Block) : Block :=
  if bankBusy s then s
  else markStale { s with cfg := { s.cfg with checking := true, refused := false } }

/-- Refuse a switch or rollback (R446, R448). -/
def bankRefuse (code : Nat) (detail : Option Nat) (s : Block) : Block :=
  let s := setRefuse code detail s
  irqRaise .cfg 0 { s with cfg := { s.cfg with refused := true, checking := false, rolling := false } }

/-- ROLLBACK (R449). -/
def bankRollbackReq (s : Block) : Block :=
  if bankBusy s then s
  else if s.cfg.idleValid then
    markStale { s with cfg := { s.cfg with rolling := true, refused := false } }
  else bankRefuse 0x0A none s

/-- Replace the words of the idle bank. -/
def setIdle (t : Table Word) (s : Block) : Block :=
  if s.cfg.active = 0 then setStores (fun st => { st with bank1 := t }) s
  else setStores (fun st => { st with bank0 := t }) s

/-- CFG_CHECK_DONE (R446, R448, R449). -/
def cfgCheckDone (s : Block) : Block :=
  if s.cfg.checking then
    let t := bankWords s (1 - s.cfg.active)
    match imageCheck s.grade t with
    | some c => bankRefuse c.1 c.2 s
    | none =>
      let s := setIdle (tclear t ((tget zeroWord t 4).toNat / 4) 262144) s
      { s with cfg := { s.cfg with checking := false, pending := true, pendIsRollback := false
                                   pendIsAuto := false, idleValid := true } }
  else if s.cfg.rolling then
    { s with cfg := { s.cfg with rolling := false, pending := true, pendIsRollback := true, pendIsAuto := false } }
  else s

/-- A pending bank becomes active (R448 to R450). -/
def bankBoundary (s : Block) : Block :=
  if !s.cfg.pending then s
  else
    let c := s.cfg
    let steps := bits (wr s (reg .cfg 0x09C)) 15 0
    let opens := !c.pendIsRollback && decide (0 < steps) && c.activeValid
    let s := { s with cfg := { c with
      active := 1 - c.active, activeValid := true, idleValid := c.activeValid, pending := false
      pendIsRollback := false, pendIsAuto := false, wdOpen := opens, wdLeft := if opens then steps else 0 } }
    if c.pendIsAuto then irqRaise .cfg 1 (flagRaise .cfg 6 s) else s

/-- CONFIRM (R450). -/
def bankConfirm (s : Block) : Block := { s with cfg := { s.cfg with wdOpen := false, wdLeft := 0 } }

/-- A step that captured the new bank ended COMMITTED or EMPTY (R450). -/
def watchdogStep (s : Block) : Block :=
  if s.cfg.wdOpen then
    { s with cfg := { s.cfg with wdLeft := s.cfg.wdLeft - 1, wdOpen := decide (1 < s.cfg.wdLeft) } }
  else s

/-! ## Repair map (R452, R453) -/

/-- Word 0 of a repair entry. -/
def repairWord (s : Block) (i : Nat) : Word := tget zeroWord s.stores.repair (4 + 2 * i)

/-- Ranges of a repair entry (R453). -/
def repairEntryOk (s : Block) (i : Nat) : Bool :=
  let w := repairWord s i
  let row := bits w 12 11 = 0
  decide (bits w 10 0 ≤ 2046) && decide (bits w 12 11 ≤ 1) && decide (bits w 15 13 ≤ (if row then 3 else 1)) &&
  decide (bits w 31 16 ≤ (if row then 1023 else 575)) && tget zeroWord s.stores.repair (5 + 2 * i) = 0

/-- First entry that breaks its ranges or repeats an earlier macro, kind and spare. -/
def repairScan (s : Block) : Nat → Nat → List Nat → Option Nat
  | 0, _, _ => none
  | n + 1, i, seen =>
    let k := bits (repairWord s i) 15 0
    if repairEntryOk s i && !seen.contains k then repairScan s n (i + 1) (k :: seen) else some i

/-- The checks of R453: code and detail of the first that fails. -/
def repairCheck (s : Block) : Option (Nat × Nat) :=
  let w0 := tget zeroWord s.stores.repair 0
  let n := bits w0 15 0
  if s.launched || s.cfg.repairDone then some (0x12, 0)
  else if 8190 < n || bits w0 31 16 ≠ 0 || tget zeroWord s.stores.repair 2 ≠ 0 ||
      tget zeroWord s.stores.repair 3 ≠ 0 then some (0x11, 0xFFFF)
  else if crc32 (storeBytes s.stores.repair 0 1 ++ storeBytes s.stores.repair 4 (2 * n)) ≠
      tget zeroWord s.stores.repair 1 then some (0x10, 0)
  else match repairScan s n 0 [] with
    | some i => some (0x11, i)
    | none => none

/-- REPAIR_APPLY (R453). -/
def repairApply (s : Block) : Block := { s with cfg := { s.cfg with applying := true } }

/-- REPAIR_APPLY_DONE (R453). -/
def repairApplyDone (s : Block) : Block :=
  if !s.cfg.applying then s
  else
    let s' := { s with cfg := { s.cfg with applying := false } }
    match repairCheck s with
    | some c =>
      let t := setRefuse c.1 (some c.2) s'
      { t with cfg := { t.cfg with repairRefused := true } }
    | none => { s' with cfg := { s'.cfg with repairRefused := false, repairDone := true } }

/-! ## Array repair (R118, R121) -/

/-- Physical arrays of a grade (R6). -/
def arrayCount : Grade → Nat
  | .x4 => 4
  | .x2 => 2

/-- Arrays in use, in logical order, for repairs as written (R121). -/
def arraysInUse (g : Grade) (reps : List Word) : List Nat :=
  let usable := (upto (arrayCount g)).filter fun a => !bit (reps.getD a 0) 4
  if usable.length = 4 then usable else if 2 ≤ usable.length then usable.take 2 else []

/-- Repairs take effect (R118, R121); a spare row newly enabled is queued for power (R402). -/
def repairsBoundary (s : Block) : Block :=
  let reps := (upto 4).map fun a => wr s (reg (.ary a) 0x080)
  let arrays := arraysInUse s.grade reps
  let new := (upto (arrayCount s.grade)).filter fun a => bit (reps.getD a 0) 0 && !bit (s.repairs.getD a 0) 0 &&
    !s.reg.gates.contains (pageBase (.ary a), .gated)
  let rows := if s.pwr.cmpUp then new else []
  queueRamp (rows.map fun a => ⟨2, a⟩)
    { s with repairs := reps, arrays := arrays, nArr := arrays.length, pwr := { s.pwr with rowsWait := rows } }

/-! ## Table epochs (R144 to R146, R178, R179) -/

/-- Set place `k` of a list. -/
def setNth {α : Type} (l : List α) (k : Nat) (x : α) : List α := l.mapIdx fun i y => if i = k then x else y

/-- A request for an SFU store: 4 micro-programs, 5 frequency tables (R145). -/
def sfuRequest (k : Nat) (s : Block) : Block :=
  if s.epochs.pending.getD k false || storeChecking s k then s
  else
    let e := { s.epochs with refused := setNth s.epochs.refused k false }
    if k = 4 then { s with epochs := { e with progCheck := true } }
    else { s with epochs := { e with freqCheck := true } }

/-- One hook's check from word `w`, `n` instructions left: the first offending word, `desc` when no END comes
(R146). -/
def hookScan (t : Table Word) (base desc : Nat) : Nat → Nat → Option Nat
  | 0, _ => some desc
  | n + 1, w =>
    if 32768 ≤ w then some desc
    else
      let op := upOp (tget zeroWord t (base + w))
      if !upValid op then some w
      else if op = 0x3F then none
      else hookScan t base desc n (w + 1)

/-- The check of one hook (R146). -/
def hookCheck (t : Table Word) (base desc limit : Nat) : Option Nat :=
  let d := tget zeroWord t (base + desc)
  if !bit d 0 then none
  else if bits d 15 1 < 512 then some desc
  else hookScan t base desc limit (bits d 15 1)

/-- The check of a micro-program epoch (R146). -/
def progCheck (s : Block) (e : Nat) : Option Nat :=
  match hookCheck s.stores.prog (e * 32768) 0 8 with
  | some w => some w
  | none => hookCheck s.stores.prog (e * 32768) 1 64

/-- The check of a frequency epoch (R146): the first failing set. -/
def freqCheck (s : Block) (e : Nat) : Option Nat :=
  (upto 32).find? fun i =>
    let w := tget zeroWord s.stores.freq (e * 32768 + i * 1024)
    let f := tget zeroWord s.stores.freq (e * 32768 + i * 1024 + 1)
    decide (512 < bits w 9 0 + bits w 19 10 + bits w 29 20) || bits f 1 0 = 3

/-- Idle epoch of switched store `k`. -/
def idleEpoch (s : Block) (k : Nat) : Nat := 1 - s.epochs.active.getD k 0

/-- SFU_TABLE_CHECK_DONE (R145, R146): the check runs on Dawn too, and is held while the page has no clock (DEDUCED, log entry
148). -/
def sfuCheckDone (st : SfuStore) (s : Block) : Block :=
  let k := match st with | .prog => 4 | .freq => 5
  if !storeChecking s k || gatedOut s .sfu then s
  else
    let r := match st with
      | .prog => progCheck s (idleEpoch s k)
      | .freq => freqCheck s (idleEpoch s k)
    let e := match st with
      | .prog => { s.epochs with progCheck := false }
      | .freq => { s.epochs with freqCheck := false }
    match r with
    | none => { s with epochs := { e with pending := setNth e.pending k true } }
    | some w => irqRaise .sfu 0 { s with epochs := { e with refused := setNth e.refused k true, sfuWord := w } }

/-- A request for the SEL stores whose bits are set (R179): ignored as a whole when one of them is pending or
under check. -/
def selRequest (stores : List Bool) (s : Block) : Block :=
  if !stores.any (· = true) then s
  else if (upto 4).any fun k => stores.getD k false && (s.epochs.pending.getD k false || storeChecking s k) then s
  else { s with epochs := { s.epochs with
      refused := s.epochs.refused.mapIdx fun i b => if i < 4 then false else b
      selChecks := s.epochs.selChecks ++ [stores] } }

/-- The first failing item of a requested SEL store (R179). -/
def selFail (s : Block) (k : Nat) : Option Nat :=
  match k with
  | 2 => biasCheck s.stores (idleEpoch s 2)
  | 3 => penCheck s.stores (idleEpoch s 3)
  | _ => none

/-- SEL_TABLE_CHECK_DONE for the oldest request (R179): on Dawn too, and held while the page has no clock (DEDUCED, log entry
148). -/
def selCheckDone (s : Block) : Block :=
  match s.epochs.selChecks with
  | [] => s
  | c :: rest =>
    if gatedOut s .sel then s
    else
    let s := { s with epochs := { s.epochs with selChecks := rest } }
    let bad := (upto 4).filter fun k => c.getD k false && (selFail s k).isSome
    match bad with
    | [] => { s with epochs := { s.epochs with
        pending := s.epochs.pending.mapIdx fun i b => b || c.getD i false } }
    | k :: _ =>
      irqRaise .sel 0 { s with epochs := { s.epochs with
        refused := s.epochs.refused.mapIdx fun i b => b || bad.contains i
        selIndex := (selFail s k).getD 0 } }

/-- Pending epochs become active (R61, R145, R179). -/
def epochBoundary (s : Block) : Block :=
  { s with epochs := { s.epochs with
      active := s.epochs.active.mapIdx fun i e => if s.epochs.pending.getD i false then 1 - e else e
      pending := s.epochs.pending.map fun _ => false } }

/-! ## Load engine (R442, R443) -/

/-- GLB.APERTURE.SEL as it stands (R465). -/
def apertureSel (s : Block) : Bool := bit (wr s (reg .glb 0x100)) 0

/-- Whether every beat of a destination range lies in an open table window (R442, R438). -/
def loadRangeOk (s : Block) (dst len : Nat) : Bool :=
  (upto len).all fun i =>
    match winAt (apertureSel s) (dst + 64 * i) with
    | some w => s.cfg.repairDone || w.1 = .repair
    | none => false

/-- LOAD_GO (R442): the aperture is captured here (R465). -/
def loadGo (s : Block) : Block :=
  let src := pairAt (wr s) (reg .cfg 0x0A4)
  let dst := (wr s (reg .cfg 0x0AC)).toNat
  let len := bits (wr s (reg .cfg 0x0B0)) 16 0
  if s.cfg.loadBusy || len = 0 || !loadRangeOk s dst len then badParam .cfg s
  else if s.fault then s
  else
    let s := { s with cfg := { s.cfg with loadBusy := true, loadSel := apertureSel s, loadSrc := src, loadDst := dst, loadLen := len
                                          loadDone := 0 } }
    request false src (64 * len) [] 6 none .system none .load s

/-- The load's read transfer, still under way or ended. -/
def loadXfer (s : Block) : Option Xfer := (s.mem.xfers ++ s.mem.done).find? fun x => x.purpose = .load

/-- Whether beat `k` of a transfer has been received. -/
def beatHere (s : Block) (x : Xfer) (k : Nat) : Bool :=
  decide (k < x.issued) && !x.failed &&
  !s.mem.access.any (fun a => a.xfer = x.id && decide (a.off ≤ k) && decide (k < a.off + a.beats)) &&
  !x.redo.any fun r => decide (r.1 ≤ k) && decide (k < r.1 + r.2.1)

/-- Take the load's transfer off the memory side. -/
def dropLoad (s : Block) : Block :=
  { s with mem := { s.mem with xfers := s.mem.xfers.filter fun x => x.purpose ≠ .load
                               done := s.mem.done.filter fun x => x.purpose ≠ .load } }

/-- A read of the load failed finally: the load ends (R443). -/
def loadError (s : Block) : Block :=
  flagRaise .cfg 8 (dropLoad { s with cfg := { s.cfg with loadBusy := false } })

/-- Word `i` of a beat for address `a` goes through the rules of the window it lands in (R442). -/
def loadWord (a : Nat) (bs : List Byte) (s : Block) (i : Nat) : Block :=
  match winAt s.cfg.loadSel (a + 4 * i) with
  | some w => if winGate w.1 s = 0 then winWrite w.1 w.2 (w32 (numAt bs (4 * i) 4)) s else s
  | none => s

/-- LOAD_BEAT (R442): the next beat, once it has been received, goes through its window's rules. -/
def loadBeat (s : Block) : Block :=
  if !s.cfg.loadBusy || s.sramInit then s
  else match loadXfer s with
    | none => s
    | some x =>
      let k := s.cfg.loadDone
      if !beatHere s x k then s
      else
        let bs := beatBytes (tget (fun _ => 0) x.got k)
        let s := (upto 16).foldl (loadWord (s.cfg.loadDst + 64 * k) bs) s
        let s := { s with cfg := { s.cfg with loadDone := k + 1 } }
        if k + 1 = s.cfg.loadLen then dropLoad { s with cfg := { s.cfg with loadBusy := false } } else s

end Sys2Proof.Machine
end

