-- ==== Sys2Proof/Machine/Timing.lean ====
section
/-! DEFINITION. The published cycle count of a step (R91 to R93, R99, R120, R127, R320, R332): every term is a
function of the batch and of what the pass captures at its boundary. -/

namespace Sys2Proof.Machine

/-- What a published count reads beside the batch: captured registers, head, frequency epoch, group and arrays. -/
structure Cap where
  regs    : Table Word
  h       : Nat
  wfmt    : Nat
  vocab   : Nat
  shards  : Nat
  freq    : Table Word
  freqEp  : Nat
  nArr    : Nat
  spare   : Bool
  deriving DecidableEq, Repr

/-- A of R92. -/
def capA (k : Cap) : Nat := bits (rc k.regs (reg .sch 0x080)) 15 0
/-- B of R92. -/
def capB (k : Cap) : Nat := bits (rc k.regs (reg .sch 0x084)) 12 0
/-- Activation format captured. -/
def capAct (k : Cap) : OpFmt := actFmt (bits (rc k.regs (reg .sfu 0x080)) 4 2)

/-- C of R99: rows of a full chunk. -/
def chunkSize (af : OpFmt) (h : Nat) : Nat := 64 * (16777216 / (64 * opBytes af h))

/-- Rows of every chunk of a pass of `n` rows (R78, R99). -/
def chunkRows (c : Nat) : Nat → Nat → List Nat
  | 0, _ => []
  | fuel + 1, n => if n = 0 then [] else if n ≤ c || c = 0 then [n] else c :: chunkRows c fuel (n - c)

/-- S of R79: bytes of a column tile's weight slice. -/
def sliceBytes (wf : OpFmt) (h : Nat) : Nat := opBytes wf (1024 * h)

/-- Column tiles of a vocabulary (R78). -/
def colTiles (vocab : Nat) : Nat := cdiv vocab 1024

/-- Cycles of a tile, t of R91 (R109). -/
def tileCycles (m : CubeMode) (n h : Nat) : Nat :=
  match m with
  | .double => 8 * (16 / n) * cdiv h 128
  | .fp8 => 65536 * h / (32768 * n)
  | .quarter => 65536 * h / (8192 * n)

/-- Adapters used by rows `[lo, lo + n)` of a batch, ascending by tenant, then slot (R126). -/
def adaptersOf (b : Batch) (rows : List BRow) : List (Nat × Nat) :=
  (rows.foldl (fun l r =>
    match r.entry with
    | none => l
    | some i => match breqOf b i with
      | some q => if hAdpEn q.host then insertKey (4 * q.tenant + hAdpSlot q.host) l else l
      | none => l) []).map fun k => (k / 4, k % 4)

/-- Whether a batch row names an adapter. -/
def namesAdapter (b : Batch) (t slot : Nat) (r : BRow) : Bool :=
  match r.entry with
  | none => false
  | some i => match breqOf b i with
    | some q => hAdpEn q.host && q.tenant = t && hAdpSlot q.host = slot
    | none => false

/-- Row groups of a chunk that hold a row of an adapter. -/
def groupsNaming (b : Batch) (t slot : Nat) (rows : List BRow) : Nat :=
  ((upto ((rows.length + 63) / 64)).filter fun g =>
    ((rows.drop (64 * g)).take 64).any (namesAdapter b t slot)).length

/-- One adapter's term of T_adapt (R127). -/
def adaptTerm (k : Cap) (b : Batch) (rows : List BRow) (a : Nat × Nat) : Nat :=
  let d := adpDesc k.regs a.1 a.2
  let f := adpFmt d.fmt
  let q := if cubeMode (capAct k) f = .quarter then 4 else 1
  let down := 8 * (k.h / 64) * cdiv (2 * d.r) (64 * k.nArr)
  let up := 8 * (d.r / 64) * cdiv k.h (64 * k.nArr)
  cdiv (adpBytes f d.r k.h) (capB k) + capA k + groupsNaming b a.1 a.2 rows * q * (down + up) + 64

/-- T_rows, T_adapt, T_fill, T_proj and T_pipe of one chunk (R91). -/
def chunkTerm (k : Cap) (b : Batch) (rows : List BRow) : Nat :=
  let n := rows.length * k.h
  let bytes := inBytes (bits (rc k.regs (reg .sfu 0x080)) 1 0)
  let wf := wgtFmt k.wfmt
  let fill := cdiv (sliceBytes wf k.h) (capB k)
  let t := tileCycles (cubeMode (capAct k) wf) k.nArr k.h
  let g := cdiv rows.length 64
  let proj := colTiles k.vocab *
    (if 8388608 < sliceBytes wf k.h then g * max t fill else max (g * t) fill)
  max (cdiv (n * bytes) (capB k)) (cdiv n 1024) + capA k +
  ((adaptersOf b rows).map (adaptTerm k b rows)).sum + (fill + capA k) + proj + 40

/-- Chunk terms of the whole pass. -/
def chunkTerms (k : Cap) (b : Batch) : List Nat → List BRow → Nat
  | [], _ => 0
  | n :: ns, rows => chunkTerm k b (rows.take n) + chunkTerms k b ns (rows.drop n)

/-- Rows of a request that are decided: the conditional ones (R156, R201). -/
def decidedRows (q : BReq) : Nat := if hGuideEn q.host && q.kind ≠ 1 then q.rows / 2 else q.rows

/-- T_decide of a request (R91); quarters are rounded up (log entry 7). -/
def decideTerm (q : BReq) : Nat :=
  if q.kind = 1 then 0
  else
    let per := if hTopPEn q.host || hMinPEn q.host then 96 + cdiv (hCandK q.host) 4
      else if hTopK q.host ≠ 0 then 4 + cdiv (hTopK q.host) 4 else 4
    decidedRows q * per + (if 0 < q.dstep then 8 else 0)

/-- T_rank of a request (R91). -/
def rankTerm (q : BReq) : Nat := if q.kind = 2 then cdiv q.refP 4 + 64 else 0

/-- Frequencies of each axis of set `set`, and its element format and order (R148). -/
def freqDims (t : Table Word) (ep set : Nat) : Nat × Nat × Nat × Nat × Bool :=
  let a := ep * 32768 + set * 1024
  let w := tget zeroWord t a
  let f := tget zeroWord t (a + 1)
  (bits w 9 0, bits w 19 10, bits w 29 20, bits f 1 0, bit f 2)

/-- Bytes of the position code of a set (R149). -/
def codeBytes (t : Table Word) (ep set : Nat) : Nat :=
  let d := freqDims t ep set
  (d.1 + d.2.1 + d.2.2.1) * (if d.2.2.2.1 = 0 then 8 else 4)

/-- The stride of R247. -/
def codeStride (t : Table Word) (ep set : Nat) : Nat := cdiv (codeBytes t ep set) 64 * 64

/-- W of R93 for one request. A prompt chunk adds the stride of its position code as generation rows do: R247 writes one at its commit,
and that no commit writes more than W governs over the figure of the table (R16; DEDUCED, log entry 105). -/
def writeTerm (k : Cap) (q : BReq) : Nat :=
  let sg := if bit (rc k.regs (reg .sfu 0x080)) 6 then 2 else 1
  let code := if hPcodeEn q.host then codeStride k.freq k.freqEp (hPcodeSet q.host) else 0
  match q.kind with
  | 0 => 32 * (q.dstep + 1) * sg + 512 + code
  | 1 => 32 * decidedRows q * sg + 512 + code
  | _ => 32 * (q.refP * sg + 1) + 512

/-! ## Ridge terms (R320, R321, R332) -/

/-- N of R320. -/
def listLen (q : BReq) : Nat :=
  if q.kind = 1 then 0
  else if hTempMode q.host || hTopK q.host = 1 then 1
  else if hTopPEn q.host || hMinPEn q.host then hCandK q.host
  else hTopK q.host

/-- t_cap of R321. -/
def capWords (q : BReq) : Nat :=
  match q.kind with
  | 0 => q.dstep + 1
  | 1 => decidedRows q
  | _ => q.refP

/-- Cycles of a message of `y` payload bytes over the medium (R332). -/
def messageTerm (k : Cap) (y : Nat) : Nat :=
  bits (rc k.regs (reg .rdg 0x090)) 15 0 +
    cdiv (y + 36 * max 1 (cdiv y 4316)) (bits (rc k.regs (reg .rdg 0x094)) 4 0)

/-- T_merge (R332). -/
def mergeTerm (k : Cap) (b : Batch) : Nat :=
  if k.shards = 1 then 0
  else
    let part := 16 + (b.reqs.map fun q =>
      decidedRows q * (40 + 8 * listLen q) + (if q.kind = 0 then 264 * q.dstep else 0)).sum
    let com := 16 + (b.reqs.map fun q => 16 + 4 * capWords q).sum
    messageTerm k (16 + 8 * b.reqs.length) + (k.shards - 1) * messageTerm k part + messageTerm k com + capA k

/-! ## The count -/

/-- STEP_PRED (R73, R91): `formed` says that formation at launch is part of it. -/
def stepPred (k : Cap) (b : Batch) (formed : Bool) : Nat :=
  let form := if formed then 4096 else 0
  if b.rows.isEmpty then form + 96 + capA k + 64
  else
    form + 96 + (if bit (rc k.regs (reg .sch 0x008)) 0 then capA k else 0) +
    chunkTerms k b (chunkRows (chunkSize (capAct k) k.h) b.rows.length b.rows.length) b.rows +
    b2n k.spare + mergeTerm k b + (b.reqs.map decideTerm).sum + (b.reqs.map rankTerm).sum +
    (4 * capA k + cdiv ((b.reqs.map (writeTerm k)).sum) (capB k) + 64)

/-- What a pass captures now (R62). -/
def capNow (s : Block) : Cap :=
  { regs := s.reg.inForce, h := bankH s s.cfg.active, wfmt := bankWfmt s s.cfg.active
    vocab := bankVocab s s.cfg.active, shards := shardsOf s s.cfg.active, freq := s.stores.freq
    freqEp := s.epochs.active.getD 5 0, nArr := s.nArr
    spare := s.arrays.any fun a => bit (s.repairs.getD a 0) 0 }

/-- The same for a context already launched. -/
def capOf (s : Block) (c : Ctx) : Cap :=
  { regs := c.regs, h := bankH s c.bank, wfmt := bankWfmt s c.bank, vocab := bankVocab s c.bank
    shards := shardsOf s c.bank, freq := s.stores.freq, freqEp := c.freqEp, nArr := c.nArr
    spare := s.arrays.any fun a => bit (s.repairs.getD a 0) 0 }

end Sys2Proof.Machine
end

