-- ==== Sys2Proof/Machine/Prologue.lean ====
section
/-! DEFINITION. What a pass fetches and in which order (R71, R78, R79, R99, R108, R126, R221, R266): the chunk and
tile walk of a pass context, the requests of a chunk's prologue, weight requests, and the removal of rows
(R102, R128, R363). -/

namespace Sys2Proof.Machine

/-! ## Shape of a pass -/

/-- Activation format of a pass. -/
def ctxAct (c : Ctx) : OpFmt := actFmt (capAfmt c)

/-- Weight format of a pass. -/
def ctxWgt (s : Block) (c : Ctx) : OpFmt := wgtFmt (bankWfmt s c.bank)

/-- Rows of the chunks the tiles run through. -/
def ctxChunks (s : Block) (c : Ctx) : List Nat :=
  chunkRows (chunkSize (ctxAct c) (bankH s c.bank)) c.order.length c.order.length

/-- First place in the order and number of rows of the present chunk. -/
def chunkSpan (s : Block) (c : Ctx) : Nat × Nat :=
  let ns := ctxChunks s c
  ((ns.take c.chunk).sum, ns.getD c.chunk 0)

/-- Row groups of the present chunk. -/
def chunkGroups (s : Block) (c : Ctx) : Nat := cdiv (chunkSpan s c).2 64

/-- Batch rows of the present chunk. -/
def chunkIdx (s : Block) (c : Ctx) : List Nat :=
  let sp := chunkSpan s c
  (c.order.drop sp.1).take sp.2

/-- Batch rows of the present tile. -/
def tileIdx (s : Block) (c : Ctx) : List Nat := ((chunkIdx s c).drop (64 * c.tileG)).take 64

/-- Column blocks of a tile (R110). -/
def tileBlocks (c : Ctx) : Nat := 16 / c.nArr

/-- Whether a slice is streamed once per row group (R79). -/
def streamed (s : Block) (c : Ctx) : Bool := decide (8388608 < sliceBytes (ctxWgt s c) (bankH s c.bank))

/-- Bytes of a column block's panels. -/
def blockBytes (s : Block) (c : Ctx) : Nat := sliceBytes (ctxWgt s c) (bankH s c.bank) / tileBlocks c

/-- Entry a row belongs to. -/
def rowEntry (c : Ctx) (r : Nat) : Option Nat :=
  match c.batch.rows[r]? with
  | some b => b.entry
  | none => none

/-! ## Removal -/

/-- A removed row (R102, R215): its cause, zeros in its slot of the activation buffer, and no statistics. -/
def gone (status : Nat) (p : PRow) : PRow := { p with removed := status, act := [], scales := [], stats := none }

/-- Remove row `r` with a record status; a row already removed keeps its first cause. -/
def removeRow (status r : Nat) (c : Ctx) : Ctx := modRow r (fun p => if p.removed = 0 then gone status p else p) c

/-- Rows that `removeRow` removes: 1, or 0 where the row is removed already. -/
def rowLeft (r : Nat) (c : Ctx) : Nat :=
  match c.rows[r]? with
  | some p => b2n (p.removed = 0)
  | none => 0

/-- Remove every row of an entry for what its draft block or chunk tokens are (R221, R266, R363): that cause stands for
each of them. -/
def removeReq (status entry : Nat) (c : Ctx) : Ctx :=
  { c with rows := c.rows.mapIdx fun r p =>
      if rowEntry c r = some entry then gone status p else p }

/-- Rows of an entry that no cause has removed yet: SFU.ROW_NONFINITE counts each as it is removed, whatever its cause (R102,
R128, R221, R266, R363; DEDUCED, log entry 119). -/
def rowsLeft (e : Nat) (c : Ctx) : Nat :=
  ((c.rows.mapIdx fun r p => rowEntry c r = some e && p.removed = 0).filter id).length

/-- Whether row `r` of the present chunk names an adapter and nothing has removed it yet. -/
def adapterRow (s : Block) (t slot : Nat) (c : Ctx) (r : Nat) (p : PRow) : Bool :=
  (chunkIdx s c).contains r && namesAdapter c.batch t slot (c.batch.rows.getD r padRow) && p.removed = 0

/-- Remove the rows of the present chunk that name an adapter, as R102 removes a row (R128). -/
def removeAdapter (s : Block) (t slot : Nat) (c : Ctx) : Ctx :=
  { c with rows := c.rows.mapIdx fun r p =>
      if adapterRow s t slot c r p then gone 0x0A p else p }

/-- How many rows that removal takes: SFU.ROW_NONFINITE counts each (R102, R128). -/
def adapterRows (s : Block) (t slot : Nat) (c : Ctx) : Nat :=
  ((c.rows.mapIdx fun r p => adapterRow s t slot c r p).filter id).length

/-! ## Requests of the prologue -/

/-- Host address of hidden row `r` (R265). -/
def rowAddr (s : Block) (c : Ctx) (r : Nat) : Nat :=
  pairAt (rc c.regs) (reg .req 0x0A0) + c.batch.seq % 2 * 64 * (rc c.regs (reg .req 0x0A8)).toNat +
    r * bankH s c.bank * inBytes (capInFmt c)

/-- Ask for hidden row `r` (R99). -/
def askRow (i r : Nat) (s : Block) : Block :=
  match ctxOf s i with
  | none => s
  | some c =>
    match rowEntry c r with
    | none => s
    | some e => match breqOf c.batch e with
      | none => s
      | some q =>
        request false (rowAddr s c r) (bankH s c.bank * inBytes (capInFmt c)) [] 1 (some q.tenant) .system (some i)
          (.row i r) s

/-- Ask for the draft block or the prompt-chunk tokens of a request (R221, R266). -/
def askData (i e : Nat) (s : Block) : Block :=
  match ctxOf s i with
  | none => s
  | some c =>
    match breqOf c.batch e, preqOf c e with
    | some q, some p =>
      if p.dataIn then s
      else if q.kind = 1 then
        match q.chunk with
        | some k => request false k.addr (4 * (k.n + 1)) [] 1 (some q.tenant) (.tenant q.tenant) (some i)
            (.chunk i e) s
        | none => s
      else
        request false (hDraftAddr q.host) (64 + 576 * q.dstep) [] 1 (some q.tenant) (.tenant q.tenant) (some i)
          (.draft i e) s
    | _, _ => s

/-- Panels of a column block in the order the feeders use them: unit by unit, and in a unit array by array (R108,
R112). The N feeders take a unit in the same cycle, so the order between the arrays of one unit is the model's: ascending, and a
128 unit as its two 64 units one after the other (DESIGN CHOICE, log entry 146). -/
def feedOrder (units n : Nat) : List (Nat × Nat) := (upto units).flatMap fun u => (upto n).map fun q => (q, u)

/-- Address of panel `(q, u)` of column block `cb` of column tile `t` (R106). -/
def panelAddr (s : Block) (c : Ctx) (t cb q u : Nat) : Nat :=
  let n := blockBytes s c
  bankWbase s c.bank + t * (n * tileBlocks c) + cb * n + (q * (bankH s c.bank / 64) + u) * panelBytes (ctxWgt s c)

/-- Ask for one panel (R108, R117). -/
def askPanel (i t g cb : Nat) (p : Nat × Nat) (s : Block) : Block :=
  match ctxOf s i with
  | none => s
  | some c => request false (panelAddr s c t cb p.1 p.2) (panelBytes (ctxWgt s c)) [] 0 none .system (some i)
      (.panel i t g cb p.1 p.2) s

/-- Ask for the panels of column block `cb` of column tile `t`, once; each is absent until it has arrived (R106,
R108). -/
def askWeights (i t g cb : Nat) (s : Block) : Block :=
  match ctxOf s i with
  | none => s
  | some c =>
    if c.wAsked.contains (t, g, cb) || tileBlocks c ≤ cb then s
    else
      let ps := feedOrder (bankH s c.bank / 64) c.nArr
      ps.foldl (fun s p => askPanel i t g cb p s) (setCtx i (some { c with
        wAsked := c.wAsked ++ [(t, g, cb)]
        weights := c.weights ++ [{ t := t, g := g, cb := cb, bytes := [], absent := ps }] }) s)

/-- Whether the weights of column tile `t` take a place in half 0 of the weight stage: slices take the halves in turn, a
streamed one goes through both (R29, R79, R108; DEDUCED, log entry 133). -/
def inHalf0 (s : Block) (c : Ctx) (t : Nat) : Bool := streamed s c || t % 2 = 0

/-- Ask for what the stage holds ahead of tile `(t, g)`: a whole slice, or two column blocks of a streamed one
(R79; DEDUCED, log entry 133). While an adapter's weights have half 0, nothing is asked for into it (R29, R126). -/
def askSlice (i t g : Nat) (s : Block) : Block :=
  match ctxOf s i with
  | none => s
  | some c =>
    if c.adpAsked && inHalf0 s c t then s
    else if streamed s c then askWeights i t g 1 (askWeights i t g 0 s)
    else (upto (tileBlocks c)).foldl (fun s cb => askWeights i t 0 cb s) s

/-- Key of the weights a tile uses: a slice that is not streamed serves every row group. -/
def weightGroup (s : Block) (c : Ctx) : Nat := if streamed s c then c.tileG else 0

/-- Whether the weights of a column block are present, every panel of them. -/
def blockHere (c : Ctx) (t g cb : Nat) : Option WeightBlk :=
  c.weights.find? fun w => w.t = t && w.g = g && w.cb = cb && w.absent.isEmpty

/-- Whether the first slice of a chunk is present as far as the stage holds it. -/
def firstFill (s : Block) (c : Ctx) : Bool :=
  (upto (if streamed s c then min 2 (tileBlocks c) else tileBlocks c)).all fun cb => (blockHere c 0 0 cb).isSome

/-! ## Walking the tiles -/

/-- Select state of a row before its first column (R186, R189). -/
def Sel.empty : Sel :=
  { heap := [], nfin := 0, m := negInf, s := 0, best := none, fin := [] }

/-- Stored state of a row that a tile works on: its select state, or in a rescan round its window as a heap (R80,
R204). -/
def storedSel (c : Ctx) (r : Nat) : Sel :=
  match c.rows[r]? with
  | some p => if c.ex.round = 0 then p.sel else { Sel.empty with heap := p.win }
  | none => Sel.empty

/-- Ask for what the stage is to hold at the start of the present tile: its slice, and where that is not streamed the next
column tile's in the other half (R22, R79). What has been asked for already is not asked for again. -/
def askTile (i : Nat) (s : Block) : Block :=
  match ctxOf s i with
  | none => s
  | some c =>
    let s := askSlice i c.tileT (weightGroup s c) s
    if !streamed s c && c.tileT + 1 < colTiles (bankVocab s c.bank) then askSlice i (c.tileT + 1) 0 s else s

/-- Begin the present tile from the stored row state (R80). -/
def startTile (i : Nat) (s : Block) : Block :=
  match ctxOf s i with
  | none => s
  | some c => askTile i (setCtx i (some { c with
      work := (tileIdx s c).map (storedSel c), cbNext := 0, cbFold := 0, halves := [] }) s)

/-- Whether a row needs nothing more before the arrays: padding, removed, or normalised. -/
def rowSettled (c : Ctx) (r : Nat) (p : PRow) : Bool := (rowEntry c r).isNone || p.removed ≠ 0 || p.ready

/-- Whether every row of the chunk and every request's data is in. -/
def chunkIn (s : Block) (c : Ctx) : Bool :=
  (chunkIdx s c).all (fun r => match c.rows[r]? with
    | some p => rowSettled c r p
    | none => true) && c.reqs.all (·.dataIn)

/-- Drop the weight panels of the column tiles that `p` names which context `i` has asked for. -/
def dropPanels (i : Nat) (p : Nat → Bool) (s : Block) : Block :=
  let mine (x : Xfer) : Bool := match x.purpose with
    | .panel j t _ _ _ _ => j = i && p t
    | _ => false
  { s with mem := { s.mem with xfers := s.mem.xfers.filter (fun x => !mine x), done := s.mem.done.filter (fun x => !mine x) } }

/-- Ask for the weights of the first adapter still to run (R123, R126). They take half 0 of the weight stage: what it held, or
was to hold, leaves it and is asked for again once the adapters have run (R29; DEDUCED, log entry 133). -/
def askAdapter (i t slot : Nat) (c : Ctx) (s : Block) : Block :=
  let d := adpDesc c.regs t slot
  let out := inHalf0 s c
  request false d.addr (adpBytes (adpFmt d.fmt) d.r (bankH s c.bank)) [] 0 (some t) (.tenant t) (some i)
    (.adapter i t slot) (setCtx i (some { c with
      adpAsked := true, weights := c.weights.filter (fun w => !out w.t), wAsked := c.wAsked.filter fun w => !out w.1 })
      (dropPanels i out s))

/-- Carry a chunk's prologue on: rows, then adapters one after another, then the first weight fill, then the
tiles; while STOP is set a pass that reaches its tile phase is asked to park (R81, R126, R409). -/
def advanceChunk (i : Nat) (s : Block) : Block :=
  match ctxOf s i with
  | none => s
  | some c =>
    if c.phase ≠ .prologue || c.parked || !chunkIn s c then s
    else match c.adapters with
      | (t, slot, _) :: _ => if c.adpAsked then s else askAdapter i t slot c s
      | [] =>
        let s := askSlice i 0 0 s
        match ctxOf s i with
        | none => s
        | some c =>
          if !firstFill s c then s
          else startTile i (setCtx i (some { c with
            phase := .tiles, tileT := 0, tileG := 0, parkReq := c.parkReq || s.pwr.stop
            parkedByStop := c.parkedByStop || s.pwr.stop }) s)

/-- A row that leaves the activation buffer. -/
def evictRow (p : PRow) : PRow := { p with fetched := none, ready := false, adapted := false, act := [], scales := [] }

/-- Rows of the present chunk that the activation buffer does not hold (R204 step 1). -/
def rowsToFetch (s : Block) (c : Ctx) : List Nat :=
  (chunkIdx s c).filter fun r => match c.rows[r]? with
    | some p => !p.ready
    | none => false

/-- Begin the present chunk: it takes the activation buffer, and its rows that are not there are asked for, with their
adapters to run; on the first chunk also the requests' drafts and tokens. -/
def startChunk (i : Nat) (s : Block) : Block :=
  match ctxOf s i with
  | none => s
  | some c =>
    let rs := chunkIdx s c
    let want := rowsToFetch s c
    let s := setCtx i (some { c with
      phase := .prologue, tileT := 0, tileG := 0, weights := [], wAsked := [], adpAsked := false, adpAbsent := [], adpStreak := 0
      rows := c.rows.mapIdx fun r p => if rs.contains r then p else evictRow p
      adapters := (adaptersOf c.batch (want.map fun r => c.batch.rows.getD r padRow)).map fun a => (a.1, a.2, none) }) s
    let s := want.foldl (fun s r =>
      match c.rows[r]? with
      | some p => if p.removed = 0 then askRow i r s else s
      | none => s) s
    let s := c.reqs.foldl (fun s q => askData i q.entry s) s
    advanceChunk i s

/-- Repeat the present chunk's prologue from its start (R82). -/
def restartChunk (i : Nat) (s : Block) : Block :=
  match ctxOf s i with
  | none => s
  | some c =>
    let rs := chunkIdx s c
    let rows := c.rows.mapIdx fun r p => if rs.contains r && p.removed = 0 then evictRow p else p
    startChunk i (setCtx i (some { c with rows := rows }) s)

/-- In the tile phase an adapter that a repaired row needs is asked for once the row is in, and after the last of them the
weights that had to leave the stage for them (R117, R126). -/
def askRepair (i : Nat) (s : Block) : Block :=
  match ctxOf s i with
  | none => s
  | some c => match c.phase, c.adapters with
    | .tiles, (t, slot, none) :: _ => if chunkIn s c && !c.adpAsked then askAdapter i t slot c s else s
    | .tiles, [] => askTile i s
    | _, _ => s

/-- Ask again for what a tile of the present chunk lacks after its context was parked: a row that parity took from the
buffer, or its adapter (R82, R117). -/
def askMissing (i : Nat) (s : Block) : Block :=
  match ctxOf s i with
  | none => s
  | some c => askRepair i ((rowsToFetch s c).foldl (fun s r =>
      match c.rows[r]? with
      | some p => if p.removed = 0 && p.fetched.isNone then askRow i r s else s
      | none => s) s)

/-- The context a transfer fetches for, when its owner is a pass before its decision. -/
def fetchCtx (x : Xfer) : Option Nat :=
  match x.purpose with
  | .guard i => some i
  | .row i _ => some i
  | .panel i _ _ _ _ _ => some i
  | .adapter i _ _ => some i
  | .adapterPanel i _ _ _ => some i
  | .draft i _ => some i
  | .chunk i _ => some i
  | _ => none

/-- Drop what context `i` has asked for: data still to come is discarded (R82), and an access that waits for a translation fault
is asked for again by the resumed pass, whatever answered that fault (R371; DEDUCED, log entry 166). -/
def dropFetches (i : Nat) (s : Block) : Block :=
  { s with mem := { s.mem with xfers := s.mem.xfers.filter fun x => fetchCtx x ≠ some i
                               done := s.mem.done.filter fun x => fetchCtx x ≠ some i } }

/-- Empty the weight stage of context `i`: what it holds and what it has asked for. -/
def dropWeights (i : Nat) (s : Block) : Block :=
  modCtx i (fun c => { c with weights := [], wAsked := [] }) (dropPanels i (fun _ => true) s)

/-- The guard has passed (R71): the pass reads everything else. -/
def guardPassed (i : Nat) (s : Block) : Block := startChunk i s

/-- Ask for the guard object (R71). -/
def askGuard (i : Nat) (s : Block) : Block :=
  match ctxOf s i with
  | none => s
  | some c => request false (pairAt (rc c.regs) (reg .sch 0x0A0)) 8 [] 5 none .system (some i) (.guard i) s

end Sys2Proof.Machine
end

