-- ==== Sys2Proof/Machine/Frames.lean ====
section
/-! DEFINITION. Ridge frames and messages (R312 to R315, R318 to R320, R323, R324, R328): their encoding, the messages a
block keeps, the row records of PART and WINDOW messages, and pulling. -/

namespace Sys2Proof.Machine

/-! ## Frames (R312, R313, R315) -/

/-- What the frames of a message share; `dst` is none for a broadcast. -/
structure MsgHead where
  bank  : Nat
  kind  : Nat
  step  : Nat
  round : Nat
  dst   : Option Nat
  retx  : Bool
  anyH  : Bool
  bdig  : Nat
  cfge  : Nat
  deriving DecidableEq, Repr

/-- One frame: header, payload and CRC (R312). -/
def frameBytes (group src : Nat) (h : MsgHead) (dst fseq fcount : Nat) (pl : List Byte) : List Byte :=
  withCrc (leBytes 4 (group + src * 2 ^ 20 + h.kind * 2 ^ 28) ++ leBytes 6 h.step ++ leBytes 2 fseq ++
    leBytes 2 fcount ++ leBytes 2 pl.length ++ leBytes 2 h.round ++ leBytes 1 dst ++
    leBytes 1 (b2n h.dst.isNone + 2 * b2n h.retx + 4 * b2n h.anyH) ++ leBytes 4 h.bdig ++ leBytes 4 h.cfge ++
    leBytes 1 1 ++ zeros 3 ++ pl)

/-- Payload bytes of a full frame (R312). -/
def framePay : Nat := 4316

/-- Send the frames of a message whose FSEQ is wanted (R315, R328); none while the block is in FAULT
(R377) or its Ridge is gated (R395). An answer counts once. DST
of a broadcast is a free value (log entry 1). -/
def sendFrames (h : MsgHead) (want : Nat → Bool) (pl : List Byte) (s : Block) : Block :=
  if s.fault || gateOf s .rdg = .gated || gateOf s .rdg = .wakePending then s
  else
    let n := max 1 (cdiv pl.length framePay)
    let r : Nat × Block := match h.dst with
      | some d => (d, s)
      | none => (bits (Config.freeWord s.fresh) 7 0, { s with fresh := s.fresh + 1 })
    let ks := (upto n).filter want
    let answer := h.retx && !ks.isEmpty
    ks.foldl (fun s k =>
      let f := frameBytes (bankGroup s h.bank) (shardOf s h.bank) h r.1 k n ((pl.drop (k * framePay)).take framePay)
      emit (.frame f (f.map bytePar)) (countUp (reg .rdg 0x0CC) 1 s))
      (if answer then countUp (reg .rdg 0x0D0) 1 r.2 else r.2)

/-- Send a whole message. -/
def sendMsg (h : MsgHead) (pl : List Byte) (s : Block) : Block := sendFrames h (fun _ => true) pl s

/-! ## Kept messages (R328) -/

/-- The BATCH or COMMIT message of a step that the block keeps. -/
def keptMsg (s : Block) (kind step : Nat) : Option KeptMsg :=
  s.rdg.kept.find? fun m => m.kind = kind && m.step = step

/-- The two newest steps of a list of kept messages. -/
def newestTwo (l : List KeptMsg) : List Nat :=
  let steps := l.foldl (fun a m => insertKey m.step a) []
  steps.drop (steps.length - 2)

/-- Keep a message; those of steps older than the last two are dropped. -/
def keepMsg (m : KeptMsg) (s : Block) : Block :=
  let l := s.rdg.kept.filter (fun k => !(k.kind = m.kind && k.step = m.step)) ++ [m]
  let two := newestTwo l
  { s with rdg := { s.rdg with kept := l.filter fun k => two.contains k.step } }

/-- The BATCH payload of a batch. -/
def batchPayload (b : Batch) : List Byte :=
  leBytes 4 b.seq ++ leBytes 1 (b2n b.refine) ++ zeros 1 ++ leBytes 2 b.rows.length ++ leBytes 2 b.reqs.length ++
    zeros 6 ++ b.reqs.flatMap fun q =>
      leBytes 2 q.entry ++ leBytes 1 q.dstep ++ leBytes 1 q.kind ++ leBytes 4 q.reqId

/-- CRC-32 of the BATCH message of a step (R312): of the message kept, or of the batch of a pass still held. -/
def heldBdig (s : Block) (step : Nat) : Option Nat :=
  match keptMsg s 1 step with
  | some m => some (crc32 m.payload).toNat
  | none => ((ctxs s).find? fun c => c.2.num = step && c.2.sharded && c.2.ex.batchSeen).map fun c =>
      (crc32 (batchPayload c.2.batch)).toNat

/-- BDIG of a step: that of its BATCH message, or a free value where the block holds none (log entry 1). -/
def bdigOf (s : Block) (step : Nat) : Nat × Block :=
  match heldBdig s step with
  | some d => (d, s)
  | none => ((Config.freeWord s.fresh).toNat, { s with fresh := s.fresh + 1 })

/-- The head of a message of a pass. -/
def headOf (s : Block) (c : Ctx) (kind round : Nat) (dst : Option Nat) (retx : Bool) (bdig : Nat) : MsgHead :=
  { bank := c.bank, kind := kind, step := c.num, round := round, dst := dst, retx := retx, anyH := false
    bdig := bdig, cfge := (bankEpoch s c.bank).toNat }

/-- Send a message of a pass. -/
def sendOf (c : Ctx) (kind round : Nat) (dst : Option Nat) (retx : Bool) (want : Nat → Bool) (pl : List Byte)
    (s : Block) : Block :=
  let b := bdigOf s c.num
  sendFrames (headOf b.2 c kind round dst retx b.1) want pl b.2

/-! ## BATCH (R318) -/

/-- The Summit broadcasts its batch and keeps it (R324 phase 1). -/
def sendBatch (c : Ctx) (s : Block) : Block :=
  let pl := batchPayload c.batch
  let m : KeptMsg := { kind := 1, step := c.num, src := shardOf s c.bank, cfge := (bankEpoch s c.bank).toNat
                       bdig := (crc32 pl).toNat, payload := pl }
  sendOf c 1 0 none false (fun _ => true) pl (keepMsg m s)

/-! ## Row records (R319, R320) -/

/-- A class word (R319). -/
def classWord (w : ClassWord) : Nat :=
  w.gv % 2 ^ 22 + (match w.cls with | some k => k % 64 * 2 ^ 22 + 2 ^ 28 | none => 0) + b2n w.committed * 2 ^ 29

/-- The class word a number spells. -/
def classWordOf (n : Nat) : ClassWord :=
  ⟨nbits n 21 0, if n.testBit 28 then some (nbits n 27 22) else none, n.testBit 29⟩

/-- Whether a global index lies in the block's slice. -/
def inSlice (s : Block) (c : Ctx) (gv : Nat) : Bool :=
  decide (bankVocBase s c.bank ≤ gv) && decide (gv < bankVocBase s c.bank + bankVocab s c.bank)

/-- Class word of a global index of the slice; one elsewhere has no class here (R167, R175). -/
def wordOf (s : Block) (c : Ctx) (gv : Nat) : ClassWord :=
  ⟨gv, if inSlice s c gv then classOf s.stores (c.selEp.getD 0 0) (gv - bankVocBase s c.bank) else none, false⟩

/-- The target of a row (R188): the next prompt token, or the draft token of its slot. -/
def targetOf (q : PReq) (b : BRow) (k : Nat) : Option Nat :=
  match b.kind with
  | 1 => q.toks[k + 1]?
  | 0 => (draftsOf q)[b.slot]?.map (·.token)
  | _ => none

/-- Draft list of a row: that of its slot below DS (R223). -/
def listOf_ (q : PReq) (b : BRow) : List (Nat × Word) :=
  if b.kind = 0 then match (draftsOf q)[b.slot]? with
    | some d => d.list
    | none => []
  else []

/-- Whether a row of a request is decided: not the odd row of a guidance pair, not padding (R156, R201). -/
def decidedRow (b : BRow) : Bool := b.entry.isSome && !b.uncond

/-- Indices of the decided rows of a pass, in row order. -/
def decidedIdx (c : Ctx) : List Nat :=
  (upto c.batch.rows.length).filter fun r => match c.batch.rows[r]? with
    | some b => decidedRow b
    | none => false

/-- Index of a conditional row among its request's positions: the m of R266, p of R210 or slot. -/
def rowPlace (q : BReq) (b : BRow) : Nat :=
  match b.kind with
  | 1 => match q.chunk with
    | some k => b.pos - k.pos0
    | none => 0
  | 2 => b.pos
  | _ => b.slot

/-- Cause code of a removed row (R319). -/
def causeCode (status : Nat) : Nat :=
  match status with
  | 0x08 => 1
  | 0x0A => 2
  | 0x0C => 3
  | _ => 4

/-- The status a cause code stands for. -/
def causeStatus (cause : Nat) : Nat :=
  match cause with
  | 1 => 0x08
  | 2 => 0x0A
  | 3 => 0x0C
  | _ => 0x0B

/-- Candidates of a row as score and class word, in rank order. -/
def candWords (s : Block) (c : Ctx) (l : List (Word × Nat)) : List (Word × Word) :=
  l.map fun e => (e.1, w32 (classWord (wordOf s c (bankVocBase s c.bank + e.2))))

/-- Every finite candidate of a row in rank order, local columns. -/
def finRank (z : Sel) : List (Word × Nat) := rankSort (z.fin.map fun e => (e.2, e.1))

/-- Final score of a local column: −inf where it was not finite (R188). -/
def finScore (z : Sel) (v : Nat) : Word :=
  match z.fin.find? fun e => e.1 = v with
  | some e => e.2
  | none => negInf

/-- Final score of a global index as this block captures it: none outside its slice. -/
def scoreAt (s : Block) (c : Ctx) (z : Sel) (gv : Nat) : Option Word :=
  if inSlice s c gv then some (finScore z (gv - bankVocBase s c.bank)) else none

/-- Record status a decided row was removed with, 0 if none; the odd row of a pair counts for its pair (R102,
R156). -/
def rowCause (c : Ctx) (r : Nat) : Nat :=
  let at_ (k : Nat) : Nat := match c.rows[k]? with | some p => p.removed | none => 0
  if at_ r ≠ 0 then at_ r
  else match c.batch.rows[r + 1]? with
    | some b => if b.uncond then at_ (r + 1) else 0
    | none => 0

/-- A place a free field of a row record stands at. -/
def fillAt (c : Ctx) (r k : Nat) : Word := Config.partFill c.num (16 * r + k)

/-- The row record of decided row `r` (R319, R320). In a free-sampling row below DS the residual stream stands in place of
the maximum of R198 (R223), so the best fields name its column and that column's final score (DEDUCED, log entry 101); a
removed row still names the class of its own token (R163, R175). -/
def partRow (s : Block) (c : Ctx) (r : Nat) : PartRow :=
  match c.rows[r]?, c.batch.rows[r]? with
  | some p, some b => match b.entry with
    | none => ⟨negInf, 0, 0, 0, 0, 0, 0, 0, 0, 0, [], [], 0, 0⟩
    | some e => match breqOf c.batch e, preqOf c e with
      | some q, some pq =>
        let n := listLen q
        let none_ : Word × Word := (negInf, 0)
        let pad (l : List (Word × Word)) := (l ++ List.replicate n none_).take n
        let ext := q.kind = 0 && decide (b.slot < q.dstep)
        let nan : Word := 0x7FC00000
        let k := rowPlace q b
        let own := if q.kind = 1 then match pq.toks[k]? with
            | some t => if inSlice s c t then some t else none
            | none => none
          else none
        let ownW := match own with | some t => w32 (classWord (wordOf s c t)) | none => fillAt c r 5
        if rowCause c r ≠ 0 then
          { m := negInf, s := 0, nfin := 0
            flags := b2n own.isSome * 4 + 8 + b2n ext * 16 + causeCode (rowCause c r) * 256
            tscore := fillAt c r 0, tword := fillAt c r 1, bestY := fillAt c r 2, bestWord := fillAt c r 3
            bestX := fillAt c r 4, ownWord := ownW, list := pad []
            dlist := if ext then List.replicate 64 nan else [], residY := nan, residWord := nan }
        else
          let z := p.sel
          let base := bankVocBase s c.bank
          let tg := match targetOf pq b k with
            | some t => if inSlice s c t then some t else none
            | none => none
          let free := freeKind (samplingOf q.host) && q.kind ≠ 1
          let early := ext && decide (b.slot < (draftsOf pq).length)
          let first : Nat := match (finRank z).head? with
            | some c0 => base + c0.2
            | none => 0
          let best : Option (Word × Nat × Word) :=
            if free && z.m ≠ negInf then
              match z.best with
              | some w => some (w.1, base + w.2.1, w.2.2)
              | none => some (negInf, first, z.m)
            else none
          let ds := listOf_ pq b
          { m := z.m, s := z.s, nfin := z.nfin
            flags := b2n tg.isSome + b2n best.isSome * 2 + b2n own.isSome * 4 + b2n ext * 16
            tscore := match tg with | some t => (scoreAt s c z t).getD negInf | none => fillAt c r 0
            tword := match tg with | some t => w32 (classWord (wordOf s c t)) | none => fillAt c r 1
            bestY := match best with | some w => w.1 | none => fillAt c r 2
            bestWord := match best with | some w => w32 (classWord (wordOf s c w.2.1)) | none => fillAt c r 3
            bestX := match best with | some w => w.2.2 | none => fillAt c r 4
            ownWord := ownW
            list := pad (candWords s c (z.heap.take n))
            dlist := if ext then (ds.map (fun d => (scoreAt s c z d.1).getD nan) ++ List.replicate 64 nan).take 64 else []
            residY := if !early then nan else match best with | some w => w.1 | none => fillAt c r 6
            residWord := if !early then nan else
              match best with | some w => w32 (classWord (wordOf s c w.2.1)) | none => fillAt c r 7 }
      | _, _ => ⟨negInf, 0, 0, 0, 0, 0, 0, 0, 0, 0, [], [], 0, 0⟩
  | _, _ => ⟨negInf, 0, 0, 0, 0, 0, 0, 0, 0, 0, [], [], 0, 0⟩

/-- Bytes of a word. -/
def wb (w : Word) : List Byte := leBytes 4 w.toNat

/-- Bytes of a row record (R319). -/
def partRowBytes (p : PartRow) : List Byte :=
  wb p.m ++ wb p.s ++ leBytes 4 p.nfin ++ leBytes 2 p.list.length ++ leBytes 2 p.flags ++ wb p.tscore ++ wb p.tword ++
    wb p.bestY ++ wb p.bestWord ++ wb p.bestX ++ wb p.ownWord ++ p.list.flatMap (fun e => wb e.1 ++ wb e.2) ++
    (if p.flags.testBit 4 then p.dlist.flatMap wb ++ wb p.residY ++ wb p.residWord else [])

/-- The PART payload of a pass (R319). -/
def partPayload (s : Block) (c : Ctx) : List Byte :=
  leBytes 4 (bankVocBase s c.bank) ++ leBytes 4 (bankVocab s c.bank) ++ leBytes 4 (bankGroupVocab s c.bank) ++
    zeros 4 ++ (decidedIdx c).flatMap fun r => partRowBytes (partRow s c r)

/-- Read one row record from the front of a string. -/
def readPartRow (bs : List Byte) : PartRow × List Byte :=
  let g (o : Nat) : Word := w32 (numAt bs o 4)
  let n := numAt bs 12 2
  let fl := numAt bs 14 2
  let ext := fl.testBit 4
  let e := 40 + 8 * n
  ({ m := g 0, s := g 4, nfin := numAt bs 8 4, flags := fl, tscore := g 16, tword := g 20, bestY := g 24
     bestWord := g 28, bestX := g 32, ownWord := g 36, list := (upto n).map fun k => (g (40 + 8 * k), g (44 + 8 * k))
     dlist := if ext then (upto 64).map fun k => g (e + 4 * k) else []
     residY := if ext then g (e + 256) else 0, residWord := if ext then g (e + 260) else 0 },
   bs.drop (if ext then e + 264 else e))

/-- Read `n` row records. -/
def readPartRows : Nat → List Byte → List PartRow
  | 0, _ => []
  | n + 1, bs => (readPartRow bs).1 :: readPartRows n (readPartRow bs).2

/-! ## Windows of a rescan round (R204, R205, R323) -/

/-- W_r for a set of `n` rows over a vocabulary (R204); in a group no more than the 16-bit entry count of a WINDOW tells
(R323), so that a longer window is cut there and counts as full (R205; DEDUCED, log entry 134). -/
def windowSize (sharded : Bool) (vocab n : Nat) : Nat :=
  let w := min vocab (16 * (2097152 / (16 * n)))
  if sharded then min w 65535 else w

/-- Whether candidate `b` ranks after the boundary `a`, both score and class word. -/
def afterBound (a : Word × Word) (b : Word × Word) : Bool :=
  ranksBefore (a.1, bits a.2 21 0) (b.1, bits b.2 21 0)

/-- This block's window for decided row `idx` as the tiles of the round have left it (R204 step 3). -/
def windowOf (s : Block) (c : Ctx) (idx : Nat) : List (Word × Word) :=
  match (decidedIdx c)[idx]? with
  | none => []
  | some r => match c.rows[r]? with
    | none => []
    | some p => candWords s c p.win

/-- This block's windows of the round in progress. -/
def windowsOf (s : Block) (c : Ctx) : List (Nat × List (Word × Word)) :=
  c.ex.rescan.map fun w => (w.1, windowOf s c w.1)

/-- The WINDOW payload (R323). -/
def windowPayload (s : Block) (c : Ctx) : List Byte :=
  (windowsOf s c).flatMap fun w =>
    leBytes 2 w.1 ++ leBytes 2 w.2.length ++ w.2.flatMap fun e => wb e.1 ++ wb e.2

/-- Read the windows of `n` rows. -/
def readWindows : Nat → List Byte → List (Nat × List (Word × Word))
  | 0, _ => []
  | n + 1, bs =>
    let k := numAt bs 2 2
    (numAt bs 0 2, (upto k).map fun i => (w32 (numAt bs (4 + 8 * i) 4), w32 (numAt bs (8 + 8 * i) 4))) ::
      readWindows n (bs.drop (4 + 8 * k))

/-- The RESCAN payload (R323). -/
def rescanPayload (l : List (Nat × Word × Word × Word)) : List Byte :=
  leBytes 2 l.length ++ zeros 6 ++ l.flatMap fun w => leBytes 2 w.1 ++ zeros 2 ++ wb w.2.1 ++ wb w.2.2.1 ++ wb w.2.2.2

/-- The order in which a round runs the rows of its set: in row order, a guidance pair together with its even row at an
even place, as R76 places pairs; a place that is filled for this names no row (R156, R204). DEDUCED, log entry 45. -/
def roundOrder (c : Ctx) (rows : List (Nat × Word × Word × Word)) : List Nat :=
  let set := (decidedIdx c).mapIdx fun idx r => (r, rows.any fun w => w.1 = idx)
  (set.filter (·.2)).foldl (fun l e =>
    if (c.batch.rows[e.1 + 1]?).any (·.uncond) then
      l ++ (if l.length % 2 = 1 then [c.batch.rows.length] else []) ++ [e.1, e.1 + 1]
    else l ++ [e.1]) []

/-- Begin the tiles of a rescan round: every window empty, the set's rows in order (R204). -/
def beginRound (i : Nat) (rows : List (Nat × Word × Word × Word)) (s : Block) : Block :=
  match ctxOf s i with
  | none => s
  | some c =>
    startChunk i (setCtx i (some { c with
      order := roundOrder c rows, chunk := 0, rows := c.rows.map fun p => { p with win := [] }
      ex := { c.ex with round := c.ex.round + 1, rescan := rows, windows := [], counted := false } }) s)

/-- Read a RESCAN payload. -/
def readRescan (bs : List Byte) : List (Nat × Word × Word × Word) :=
  (upto (numAt bs 0 2)).map fun k =>
    let o := 8 + 16 * k
    (numAt bs o 2, w32 (numAt bs (o + 4) 4), w32 (numAt bs (o + 8) 4), w32 (numAt bs (o + 12) 4))

/-! ## Pulling (R324 phase 3) -/

/-- The acting Summit: the lowest shard not missing (R337). -/
def actingSummit (s : Block) : Nat := ((upto 256).find? fun i => !s.rdg.missing.contains i).getD 0

/-- The Summit pulls the next peer of the round. -/
def pullNext (i : Nat) (s : Block) : Block :=
  match ctxOf s i with
  | none => s
  | some c => match c.ex.toPull with
    | [] => setCtx i (some { c with ex := { c.ex with pulling := false } }) s
    | j :: _ =>
      let s := setCtx i (some { c with ex := { c.ex with pulling := true, naks := 0, anyNak := false } }) s
      sendOf c 2 c.ex.round (some j) false (fun _ => true) [] s

/-- Peers of a pass: every shard but this block's, ascending. -/
def peersOf (s : Block) (c : Ctx) : List Nat := (upto (shardsOf s c.bank)).filter fun j => j ≠ shardOf s c.bank

/-- Start pulling every peer for a round. -/
def pullAll (i : Nat) (s : Block) : Block :=
  match ctxOf s i with
  | none => s
  | some c => pullNext i (setCtx i (some { c with ex := { c.ex with toPull := peersOf s c } }) s)

/-- A peer answers a pull: its PART, or its WINDOW of the round in progress (R324, R328). -/
def answerPull (c : Ctx) (dst : Nat) (retx : Bool) (want : Nat → Bool) (s : Block) : Block :=
  if c.ex.round = 0 then sendOf c 3 0 (some dst) retx want (partPayload s c) s
  else sendOf c 6 c.ex.round (some dst) retx want (windowPayload s c) s

/-! ## The receive buffer (R47, R316, R376) -/

/-- Frames of one message. -/
def framesOf (s : Block) (src kind step round : Nat) : List RxFrame :=
  s.rdg.rx.filter fun f => f.src = src && f.kind = kind && f.step = step && f.round = round

/-- Whether a frame comes before one of its message's earlier frames: it waits in the receive buffer, while a frame in FSEQ
order is consumed as it comes (R316). -/
def frameEarly (s : Block) (f : RxFrame) : Bool :=
  !s.rdg.taken.contains (f.src, f.kind, f.step, f.round) &&
  decide ((framesOf s f.src f.kind f.step f.round).countP (fun g => decide (g.fseq < f.fseq)) < f.fseq)

/-- Bytes of the receive buffer in use (R47). -/
def rxUsed (s : Block) : Nat := ((s.rdg.rx.filter (frameEarly s)).map fun f => f.payload.length + 36).sum

/-- Whether the receive buffer is full: not a byte of its 64 KiB is free (R47; DEDUCED, log entry 61). -/
def rxFull (s : Block) : Bool := decide (65536 ≤ rxUsed s)

/-- A held frame read back with wrong parity is dropped as a corrupt one (R376). -/
def rxBad (k : Nat) (s : Block) : Block :=
  match (s.rdg.rx.filter (frameEarly s))[k]? with
  | none => s
  | some f => countUp (reg .rdg 0x0C0) 1 { s with rdg := { s.rdg with rx := s.rdg.rx.erase f } }

/-- The projection of a pass has ended: the Summit begins to pull, a peer answers a pull that waits (R324). -/
def passEnded (i : Nat) (s : Block) : Block :=
  match ctxOf s i with
  | none => s
  | some c =>
    if !c.sharded then s
    else if isSummit s c.bank then pullAll i s
    else if c.ex.pulled then
      answerPull c (actingSummit s) false (fun _ => true)
        (setCtx i (some { c with ex := { c.ex with pulled := false } }) s)
    else s

end Sys2Proof.Machine
end

