-- ==== Sys2Proof/Machine/Power.lean ====
section
/-! DEFINITION. Clocks and power (R381 to R402, R408 to R411): the Dawn judgement, the PLL and the clock monitor,
the divider, gating, the power states, the power-up queue, thermal evaluation, and the parking and resuming of
passes that it asks for. -/

namespace Sys2Proof.Machine

/-- Change the clock and power side. -/
def setPwr (f : PwrSide → PwrSide) (s : Block) : Block := { s with pwr := f s.pwr }

/-! ## Gates (R394 to R396) -/

/-- Replace a page's gate state. -/
def setGate (p : Page) (g : GateState) (s : Block) : Block :=
  let rest := s.reg.gates.filter fun x => x.1 ≠ pageBase p
  { s with reg := { s.reg with gates := if g = .running then rest else rest ++ [(pageBase p, g)] } }

/-- GATE.ON of a page as it reads. -/
def gateOn (s : Block) (p : Page) : Bool :=
  match gateOf s p with
  | .running => true
  | .wakePending => !s.reg.gateAfter.contains (pageBase p)
  | _ => false

/-- Note or withdraw a gate request that follows a wake (R396). -/
def setAfter (p : Page) (b : Bool) (s : Block) : Block :=
  let rest := s.reg.gateAfter.filter fun x => x ≠ pageBase p
  { s with reg := { s.reg with gateAfter := if b then rest ++ [pageBase p] else rest } }

/-- Whether the arrays stand at a tile boundary: no pass has a tile under way (R80). -/
def tileBoundary (s : Block) : Bool :=
  (ctxs s).all fun c => c.2.parked || c.2.phase ≠ .tiles || (c.2.cbNext = 0 && c.2.halves.isEmpty)

/-- The idle boundary of a sub-block (R395): for an array a tile boundary while no held pass has it in its effective set. The
arrays in use are those of every pass held, since no bank is switched under one (R83). -/
def gateIdle (s : Block) (p : Page) : Bool :=
  match p with
  | .ary n => !(anyPass s && s.arrays.contains n) && tileBoundary s
  | .rdg => !anySharded s
  | .dbg => true
  | _ => !anyPass s

/-- GATE.ON written 0 (R395, R396). -/
def gateRequest (p : Page) (s : Block) : Block :=
  if !gateable p then s
  else match gateOf s p with
    | .running => setGate p .gatePending s
    | .wakePending => setAfter p true s
    | _ => s

/-- Items the power-up of array `n` queues (R402): the array, and its spare row where one is in use. -/
def aryItems (s : Block) (n : Nat) : List RampItem := ⟨1, n⟩ :: if bit (s.repairs.getD n 0) 0 then [⟨2, n⟩] else []

/-- GATE.ON written 1 (R396): an array's wake takes a ramp slot of R402. -/
def wakeRequest (p : Page) (s : Block) : Block :=
  if !gateable p then s
  else match gateOf s p with
    | .gatePending => setGate p .running s
    | .wakePending => setAfter p false s
    | .gated =>
      let s := setGate p .wakePending s
      match p with
      | .ary n => if s.pwr.cmpUp then queueRamp (aryItems s n) s else s
      | _ => s
    | .running => s

/-- The idle boundary of a pending gate request (R395). -/
def gateEffect (p : Page) (s : Block) : Block :=
  if gateOf s p = .gatePending && gateIdle s p then setGate p .gated s else s

/-- A wake ends (R396). -/
def wakeEnd (p : Page) (s : Block) : Block :=
  if gateOf s p ≠ .wakePending then s
  else if s.reg.gateAfter.contains (pageBase p) then setGate p .gatePending (setAfter p false s)
  else setGate p .running s

/-- WAKE_DONE: an array's wake ends with its ramp slot, any other's by itself. -/
def wakeDone (p : Page) (s : Block) : Block :=
  match p with
  | .ary n => if s.pwr.cmpUp && !s.pwr.ramp.contains ⟨1, n⟩ then wakeEnd p s else s
  | _ => wakeEnd p s

/-! ## Divider, states and fast domains (R393, R398) -/

/-- CLK.DIV.MIN_DIV. -/
def minDiv (s : Block) : Nat := bits (wr s (reg .clk 0x080)) 3 0

/-- CLK.DIV.TARGET (R393, R409). -/
def divTarget (s : Block) : Nat :=
  if s.pwr.stop || !s.pwr.fastOn then 8 else max (minDiv s) (max s.pwr.thLevel s.pwr.plLevel)

/-- RUN or THROTTLE by the levels and STOP (R398). -/
def autoState (s : Block) : Block :=
  let hot := decide (minDiv s < s.pwr.thLevel) || decide (minDiv s < s.pwr.plLevel) || s.pwr.stop
  match s.pwr.state with
  | .run => if hot then irqRaise .pwr 1 (setPwr (fun w => { w with state := .throttle }) s) else s
  | .throttle => if hot then s else setPwr (fun w => { w with state := .run }) s
  | _ => s

/-- Whether control has a clock (R385, R389). -/
def ctrlClock (s : Block) : Bool := !s.pwr.rstLow && (s.pwr.src = .dawn || s.pwr.src = .pll)

/-- Start the fast domains once control runs on the PLL and the compute tier is powered (R386, R393, R437). -/
def fastStart (s : Block) : Block :=
  let w := s.pwr
  if w.src = .pll && w.cmpUp && w.ramp.isEmpty && !w.fastOn && !w.isolated then
    let s := setPwr (fun w => { w with fastOn := true, divCur := 8, waking := false }) s
    if w.waking then irqRaise .pwr 3 s else s
  else s

/-- Items a power-up of the compute tier queues (R402): arrays whose GATE.ON is 0 are left out (R400), those in GATE_PENDING
too (DEDUCED, log entry 110). -/
def tierItems (s : Block) : List RampItem :=
  let arys := (upto (arrayCount s.grade)).filter fun a => gateOn s (.ary a)
  ⟨0, 0⟩ :: arys.map (fun a => ⟨1, a⟩) ++
    (arys.filter fun a => bit (s.repairs.getD a 0) 0).map fun a => ⟨2, a⟩

/-- Whether control may power the compute tier up: from the power-up on, once it runs on the PLL (R437); in a wake and
after the tier was isolated it needs only its clock (R400, R455; DEDUCED, log entry 107). -/
def tierClock (w : PwrSide) : Bool := w.src = .pll || (w.src = .dawn && (w.waking || w.isolated))

/-- Power the compute tier up when it may be (R400, R402, R437, R455). -/
def tierWake (s : Block) : Block :=
  let w := s.pwr
  if tierClock w && w.pgCmp && !w.cmpUp && !w.tripHold && w.state ≠ .retain && w.state ≠ .offReady then
    queueRamp (tierItems s) (setPwr (fun w => { w with cmpUp := true, isolated := false }) s)
  else s

/-- The compute tier loses its clocks and power; where it is isolated for that, CMP_ISOLATED rises with its interrupt
(R414). -/
def tierDown (isolate : Bool) (s : Block) : Block :=
  let s := if isolate && !s.pwr.isolated then irqRaise .pwr 4 s else s
  setPwr (fun w => { w with cmpUp := false, fastOn := false, divCur := 8, ramp := [], slot := 0, isolated := w.isolated || isolate }) s

/-- RAMP_SLOT_END (R402): the slot's items are powered; arrays that waited become RUNNING. Slots are timed in control cycles, so none
ends without a control clock (R389). -/
def rampSlotEnd (s : Block) : Block :=
  let n := s.pwr.slot
  let got := s.pwr.ramp.take n
  if n = 0 || !ctrlClock s then s
  else
    let s := startSlot (setPwr (fun w => { w with ramp := w.ramp.drop n, slot := 0 }) s)
    let s := got.foldl (fun s i => if i.kind = 1 then wakeEnd (.ary i.index) s else s) s
    fastStart s

/-- DUSK rises in DRAIN when nothing is left to do (R399). -/
def duskCheck (s : Block) : Block :=
  if s.pwr.state = .drain && !s.pwr.dusk && !anyPass s && !portBusy s && !ridgeExpected s then
    irqRaise .pwr 0 (setPwr (fun w => { w with dusk := true }) s)
  else s

/-- Leave RETAIN or OFF toward a state (R400, R401). -/
def wakeTo (st : PState) (s : Block) : Block :=
  let s := { s with mirror := { s.mirror with sk := s.mirror.live } }
  fastStart (tierWake (autoState (setPwr (fun w => { w with state := st, waking := true, dusk := false }) s)))

/-- A request of RUN (R399 to R401): out of OFF only before a rail has fallen, after which the return is the power-up and the
request changes no state (DEDUCED, log entry 108). -/
def reqRun (s : Block) : Block :=
  match s.pwr.state with
  | .drain => autoState (setPwr (fun w => { w with state := .run, dusk := false }) s)
  | .retain => wakeTo .run s
  | .offReady => if s.pwr.railFell then s else wakeTo .run s
  | _ => s

/-- A request of DRAIN (R399; out of OFF as RUN is, log entry 108). -/
def reqDrain (s : Block) : Block :=
  match s.pwr.state with
  | .retain => wakeTo .drain s
  | .offReady => if s.pwr.railFell then s else wakeTo .drain s
  | _ => duskCheck (setPwr (fun w => { w with state := .drain }) s)

/-- A request of RETAIN (R398, R400); the flag tells whether it was taken. -/
def reqRetain (s : Block) : Block × Bool :=
  if s.pwr.state = .drain && s.pwr.dusk then
    (tierDown false (setPwr (fun w => { w with state := .retain }) s), true)
  else (flagRaise .pwr 7 s, false)

/-- A request of OFF (R398, R401). -/
def reqOff (s : Block) : Block × Bool :=
  if s.pwr.state = .drain && s.pwr.dusk then
    (irqRaise .pwr 5 (tierDown false (setPwr (fun w => { w with state := .offReady, railFell := !w.pgCmp }) s)), true)
  else (flagRaise .pwr 7 s, false)

/-- CMP_ISOLATED (R400). -/
def cmpIsolatedNow (s : Block) : Block :=
  if (s.pwr.state = .retain || s.pwr.state = .offReady) && !s.pwr.isolated then
    irqRaise .pwr 4 (setPwr (fun w => { w with isolated := true }) s)
  else s

/-! ## Clocks (R383 to R392) -/

/-- MER.STATUS.ALIGNED (R69). -/
def aligned (s : Block) : Bool := s.pwr.pllLock && decide (16 ≤ s.goodRun)

/-- Apply `f`; MER.IRQ_STAT bit 3 rises when ALIGNED falls. -/
def watchAligned (f : Block → Block) (s : Block) : Block :=
  let t := f s
  if aligned s && !aligned t then irqRaise .mer 3 t else t

/-- Control comes to run on the PLL (R385, R386). -/
def onPll (s : Block) : Block := fastStart (tierWake (setPwr (fun w => { w with src := .pll }) s))

/-- A fatal CLOCK_LOSS that had to wait for a clock (R390). One that acts on a block already in FAULT changes nothing, so the fault that
came meanwhile stands as the first (R378; DEDUCED, log entry 168). -/
def lossNow (s : Block) : Block :=
  if s.pwr.lossPend then fatal 0x10 s.pwr.monCause (setPwr (fun w => { w with lossPend := false }) s) else s

/-- Dawn has been judged stable (R383 to R385, R389). -/
def dawnJudged (s : Block) : Block :=
  let s := setPwr (fun w => { w with dawnOk := true }) s
  if s.pwr.rstLow then s
  else
    let s := irqRaise .clk 1 s
    match s.pwr.src with
    | .start => setPwr (fun w => { w with src := .dawn }) s
    | .hold => lossNow (tierWake (setPwr (fun w => { w with src := .dawn }) s))
    | _ => s

/-- DAWN_WINDOW (R383). -/
def dawnWindow (c : Nat) (s : Block) : Block :=
  let w := s.pwr
  if !w.judging || !w.refSeen || !(w.refclkOk || w.rstLow) then s
  else
    let s := setPwr (fun w => { w with
      windows := w.windows + 1, prevWin := c, dawnCount := if w.rstLow then 0 else c }) s
    let d := if w.prevWin ≤ c then c - w.prevWin else w.prevWin - c
    if !w.dawnOk && 1 ≤ w.windows && 6144 ≤ c && c ≤ 10240 && d * 100 ≤ 3 * w.prevWin then dawnJudged s else s

/-- DAWN_STRAP_EXPIRY (R384). -/
def dawnStrap (s : Block) : Block :=
  let w := s.pwr
  if w.judging && !w.refSeen && !w.dawnOk then
    dawnJudged (setPwr (fun w => { w with dawnByStrap := true }) s)
  else s

/-- REFCLK_FIRST_EDGE (R384, R385, R392). -/
def refclkEdge (s : Block) : Block :=
  if s.pwr.refclkOk then s
  else setPwr (fun w => { w with
    refclkOk := !w.rstLow, pllStarted := w.pllStarted || !w.rstLow
    refSeen := w.refSeen || w.judging, windows := if w.refSeen then w.windows else 0 }) s

/-- PLL_LOCK (R385, R386). -/
def pllLocked (s : Block) : Block :=
  let w := s.pwr
  if w.rstLow || !w.pllStarted || !w.refclkOk || w.pllLock then s
  else
    let s := setPwr (fun w => { w with pllLock := true }) s
    if w.usePll && w.src ≠ .hold then onPll s else s

/-- CLK.CTRL.USE_PLL written 1 (R386, R392). -/
def usePll (s : Block) : Block :=
  let s := setPwr (fun w => { w with usePll := true }) s
  if s.pwr.pllLock && s.pwr.src = .dawn then onPll s else s

/-- MON_CAUSE code (R413). -/
def monCode : MonCause → Nat
  | .lockLost => 0
  | .ratio => 1
  | .refclkLost => 2

/-- MONITOR_TRIP (R387 to R391); the monitor is armed while control runs on the PLL (R386). REFCLK_OK falls here, at REFCLK_LOST,
and at a reset alone (R413; DESIGN CHOICE, log entry 157). -/
def monitorTrip (c : MonCause) (s : Block) : Block :=
  if s.pwr.rstLow || s.pwr.src ≠ .pll then s
  else
    let lost := anyPass s || !s.mem.access.isEmpty || ridgeExpected s
    let s := countUp (reg .clk 0x08C) 1 (strobe (.clock false) s)
    let s := watchAligned (setPwr fun w => { w with
      fastOn := false, divCur := 8, usePll := false, monCause := monCode c
      pllLock := if c = .ratio then w.pllLock else false
      refclkOk := if c = .refclkLost then false else w.refclkOk
      src := if w.dawnOk then .dawn else .hold }) s
    let s := if s.pwr.src = .hold then strobe (.clock true) s else s
    if !lost then irqRaise .clk 0 s
    else if s.pwr.src = .dawn then fatal 0x10 (monCode c) s
    else setPwr (fun w => { w with lossPend := true }) s

/-- DIVIDER_RAMP_STEP (R393). -/
def dividerStep (s : Block) : Block :=
  let t := divTarget s
  if !s.pwr.fastOn then s
  else setPwr (fun w => { w with
    divCur := if w.divCur < t then w.divCur + 1 else if t < w.divCur then w.divCur - 1 else w.divCur }) s

/-- SRAM_INIT_DONE (R437). -/
def sramInitDone (s : Block) : Block := if ctrlClock s then { s with sramInit := false } else s

/-! ## Parking and resuming passes (R81, R82, R409) -/

/-- Whether a sharded pass stands in an exchange of messages: before its BATCH, past its tiles, while a Summit pulls, and while
a row group is rebuilt after the last tile (R324, R326, R376). -/
def exchanging (c : Ctx) : Bool :=
  !c.ex.batchSeen || c.ex.pulling || !c.ex.toPull.isEmpty || c.rebuild.any (·.2) ||
  (match c.phase with
   | .launching => false
   | .guard => false
   | .prologue => false
   | .tiles => false
   | _ => true)

/-- Whether the running pass can be asked to park: an unsharded one wherever it stands (R66; DEDUCED, log entry 114), a
sharded one outside an exchange (R326). -/
def preemptable (c : Ctx) : Bool := !c.sharded || !exchanging c

/-- Ask the running pass to park: with no more than PREEMPT_FINISH cycles of its tile left it finishes the tile
(R81), by the value the running pass captured (DEDUCED, log entry 115). -/
def requestPark (byStop : Bool) (remaining : Nat) (s : Block) : Block :=
  match s.running with
  | none => s
  | some i => modCtx i (fun c => { c with
      parkReq := true, parkedByStop := c.parkedByStop || byStop
      finishTile := c.phase = .tiles && decide (remaining ≤ bits (rc c.regs (reg .sch 0x090)) 13 0) }) s

/-- Resume parked context `i` (R82): a pass parked after its guard passed and before the first tile of its chunk
repeats that chunk's prologue; one parked in its tile phase continues at its next tile; one parked after its last tile
goes on to its exchange (R324). -/
def resumeCtx (i : Nat) (s : Block) : Block :=
  match ctxOf s i with
  | some c =>
    if c.parked then
      let s := setCtx i (some { c with parked := false, parkedByStop := false, parkReq := false })
        { s with running := some i }
      match c.phase with
      | .prologue => restartChunk i s
      | .tiles => startTile i (askMissing i s)
      | .decide => passEnded i s
      | _ => s
    else s
  | none => s

/-- The parked context that may resume now: one that STOP parked first, else a parked one, none while STOP is
set, a pass runs, or HALT holds a sharded pass (R82, R335, R409). -/
def resumable (s : Block) : Option Nat :=
  if s.running.isSome || s.pwr.stop then none
  else
    let ps := (ctxs s).filter fun c => c.2.parked && !(c.2.sharded && s.rdg.halt)
    match ps.find? fun c => c.2.parkedByStop with
    | some c => some c.1
    | none => ps.head?.map fun c => c.1

/-- Resume what may resume. -/
def resumeAny (s : Block) : Block :=
  match resumable s with
  | some i => resumeCtx i s
  | none => s

/-! ## Thermal evaluation (R408 to R410) -/

/-- A field of PWR.THERM: 0 T_WARN, 1 T_THR, 2 T_STOP, 3 T_TRIP. -/
def therm (s : Block) (k : Nat) : Nat := bits (wr s (reg .pwr 0x0C0)) (8 * k + 7) (8 * k)

/-- A level of R408. -/
def levelStep (up down : Bool) (l : Nat) : Nat := if up then min 8 (l + 1) else if down then max 2 (l - 1) else l

/-- Whether the running pass is one that STOP parks: in its tile phase, or in a rescan round (R409), but not in an exchange of
messages (R326). It is asked as STOP is set, and not again (DEDUCED, log entry 143). -/
def stopParks (s : Block) : Bool :=
  match runCtx s with
  | some c => (c.2.phase = .tiles || (c.2.phase = .prologue && c.2.ex.round ≠ 0)) && preemptable c.2
  | none => false

/-- THERMAL_EVAL (R408 to R410). -/
def thermalEval (temp sensor watts remaining : Nat) (s : Block) : Block :=
  if !ctrlClock s then s
  else
    let lim := bits (wr s (reg .pwr 0x0C8)) 7 0
    let thr := therm s 1
    let s := setPwr (fun w => { w with
      tempHot := temp, tempSensor := sensor
      thLevel := levelStep (decide (thr ≤ temp)) (decide (temp + 5 < thr)) w.thLevel
      plLevel := levelStep (decide (lim < watts)) (decide (10 * watts < 9 * lim)) w.plLevel }) s
    let s :=
      if therm s 2 ≤ temp && !s.pwr.stop then
        let s := irqRaise .pwr 2 (countUp (reg .pwr 0x0CC) 1 (setPwr (fun w => { w with stop := true }) s))
        if stopParks s then requestPark true remaining s else s
      else if s.pwr.stop && temp + 5 < therm s 2 then
        resumeAny (setPwr (fun w => { w with stop := false, divCur := 8 }) s)
      else s
    let s := autoState s
    if therm s 3 ≤ temp then
      setPwr (fun w => { w with tripHold := true })
        (tierDown true (fatal 0x12 (temp % 256 + sensor % 16 * 256) s))
    else if s.pwr.tripHold && !s.fault && temp < therm s 2 then
      fastStart (tierWake (setPwr (fun w => { w with tripHold := false }) s))
    else s

/-! ## Compute rail (R58, R400) -/

/-- pg_cmp falls. -/
def cmpFall (s : Block) : Block :=
  let expected := s.pwr.state = .retain || s.pwr.state = .offReady
  let s := setPwr (fun w => { w with pgCmp := false, railFell := true }) s
  if expected then tierDown false s
  else if s.pwr.rstLow then tierDown false s
  else tierDown true (fatal 0x11 0 s)

/-- pg_cmp counts high. -/
def cmpRise (s : Block) : Block := fastStart (tierWake (setPwr (fun w => { w with pgCmp := true }) s))

/-- Condition 2 of R68 with R392, R397, R398 and R400. On the PLL it fails as well while the fast domains stand still with WAKING 0
(DEDUCED, log entry 155). -/
def powerOk (s : Block) : Bool :=
  let w := s.pwr
  let used : List Page := [.sfu, .sel, .smp, .spc] ++ s.arrays.map Page.ary ++
    (if shardsOf s s.cfg.active = 1 then [] else [.rdg])
  (w.state = .run || w.state = .throttle) && !w.waking && w.src = .pll && w.fastOn &&
  used.all fun p => gateOf s p = .running

end Sys2Proof.Machine
end

