-- ==== Sys2Proof/Machine/StepEnd.lean ====
section
/-! DEFINITION. What the end of a step does, committed, empty, timed out or abandoned (R72, R94, R264, R346, R357,
R405, R406, R422, R466): the energy account, the predictor, the power controller's strobes, the leaves, the
results in the SCH page, and the pass that may resume. -/

namespace Sys2Proof.Machine

/-! ## Energy -/

/-- The charge at the end of a step (R405): measured energy minus E, never below 0. -/
def accountEnd (c : Ctx) (meas : Nat) (s : Block) : Block :=
  setPwr (fun w => { w with acc := w.acc + meas - c.batch.energy, lastPred := c.batch.energy, lastMeas := meas }) s

/-- One class of the predictor taking the ratio `r` (R406). -/
def teachClass (r k : Nat) (w : PwrSide) : PwrSide :=
  let n := w.corrCnt.getD k 0
  if n < 8 then
    let a := w.corrAcc.getD k 0 + r
    { w with
      corrAcc := setNth w.corrAcc k a
      corrCnt := setNth w.corrCnt k (n + 1)
      corr := if n + 1 = 8 then setNth w.corr k (a / 8) else w.corr }
  else
    let o := w.corr.getD k 4096
    { w with corr := setNth w.corr k ((o : Int) + ((r : Int) - o) / 8).toNat }

/-- The predictor learns from a step that committed and neither parked nor pre-empted (R406). -/
def teach (c : Ctx) (meas : Nat) (s : Block) : Block :=
  if c.everParked || c.preempt || c.batch.eraw = 0 then s
  else
    let r := min 16383 (meas * 4096 / c.batch.eraw)
    setPwr (fun w => (upto 4).foldl (fun w k => if c.batch.classN.getD k 0 = 0 then w else teachClass r k w) w) s

/-! ## Strobes (R422) -/

/-- Tenants of a batch with the rows their requests hold, ascending. -/
def tenantRows (b : Batch) : List (Nat × Nat) :=
  (b.reqs.foldl (fun l q => insertKey q.tenant l) []).map fun t =>
    (t, (b.reqs.foldl (fun n q => if q.tenant = t then n + q.rows else n) 0))

/-- STEP_ROWS for every tenant, then STEP_END with ATTR (R422). -/
def stepStrobes (c : Ctx) (attr : Bool) (s : Block) : Block :=
  strobe (.stepEnd c.num attr)
    ((tenantRows c.batch).foldl (fun s t => strobe (.stepRows t.1 t.2) s) s)

/-! ## Leaves (R264) -/

/-- Whether a request of the pass reached its natural stop in it. -/
def leaves (q : PReq) : Bool :=
  (q.stage = .committed || q.stage = .silent) && match q.plan with
    | some p => p.stop
    | none => false

/-- Return the pages of the step's leaves; those of the step launched last are left out of the next formation's
available count (R263). -/
def releaseLeaves (c : Ctx) (s : Block) : Block :=
  (c.reqs.filter leaves).foldl (fun s q =>
    let e := entryAt s q.entry
    if e.state = .done then
      let s := freePages e.pages (modEntry q.entry (fun e => { e with pages := [] }) s)
      if s.rdg.newest = some c.num then { s with leftPages := s.leftPages + e.pages.length } else s
    else s) s

/-! ## The end -/

/-- SCH.IRQ_STAT bit of an outcome (R94, R466). -/
def endIrq (o : Outcm) (s : Block) : Block :=
  match o with
  | .committed => irqRaise .sch 0 s
  | .empty => irqRaise .sch 0 s
  | .skipped => irqRaise .sch 1 s
  | .guardTimeout => irqRaise .sch 2 s
  | _ => s

/-- LAST_STEP and the counts of a step that ends (R94, R346, R466): the digest of a step not COMMITTED is 0
(R357). -/
def recordEnd (c : Ctx) (o : Outcm) (m : Measure) (r : StepRegs) : StepRegs :=
  let done := o = .committed || o = .empty
  { r with
    cycles := if done then c.pred + c.stall + m.cycles else m.cycles
    stall := if done then ((c.stall + m.cycles : Nat) : Int) else (m.cycles : Int) - c.pred
    outcome := o, reason := 0, partialC := c.partialC, late := c.late, overrun := c.overrun
    unaligned := c.unaligned, num := c.num
    digest := if o = .committed then r.digest else 0
    digestStep := if o = .committed then r.digestStep else c.num }

/-- A step ends: the context is freed and a parked pass may resume (R82, R94). -/
def endStep (i : Nat) (o : Outcm) (m : Measure) (s : Block) : Block :=
  match ctxOf s i with
  | none => s
  | some c =>
    let s := accountEnd c m.energy s
    let s := if o = .committed then teach c m.energy s else s
    let s := stepStrobes c (o = .committed) s
    let s := { s with step := recordEnd c o m s.step }
    let s := if (o = .committed || o = .empty) && c.bank = s.cfg.active then watchdogStep s else s
    let s := endIrq o s
    let s := setCtx i none (releaseLeaves c s)
    let s := { s with running := if s.running = some i then none else s.running
                      rdg := { s.rdg with ended := s.rdg.ended ++ [c.num]
                                          rx := s.rdg.rx.filter fun f => f.step ≠ c.num || f.kind = 4
                                          taken := s.rdg.taken.filter fun t => t.2.2.1 ≠ c.num } }
    resumeAny s

/-- Abandon a step (R72, R334): its requests return to the state before formation, what it has asked for is
dropped, and nothing is charged. -/
def abandonStep (i : Nat) (o : Outcm) (m : Measure) (s : Block) : Block :=
  match ctxOf s i with
  | none => s
  | some c =>
    let s := dropFetches i (unform c.batch s)
    let s := match s.forming with
      | some b => if b.step = c.num && !stageFive s b then { s with forming := none } else s
      | none => s
    endStep i o m s

/-- A batch with no rows ends EMPTY; the rest COMMITTED (R73, R85). -/
def doneOutcome (c : Ctx) : Outcm := if c.batch.rows.isEmpty then .empty else .committed

end Sys2Proof.Machine
end

