-- ==== Sys2Proof/Machine/RidgeMsg.lean ====
section
/-! DEFINITION. The taking of a group fault (R333 to R337). -/

namespace Sys2Proof.Machine

/-! ## Group faults (R333 to R337) -/

/-- Raise a group fault: record it, learn the shards it names, and report it or count the report suppressed. -/
def groupFault (code shard step bank : Nat) (miss : List Nat) (s : Block) : Block :=
  let r := s.rdg
  let first := r.gfault = 0
  let s := { s with rdg := { r with
    halt := true, missing := r.missing ++ miss.filter fun m => !r.missing.contains m
    gfault := if first then code else r.gfault
    gshard := if first then shard else r.gshard
    gfstep := if first then step else r.gfstep } }
  if isSummit s bank && s.rdg.irqPeriod ≠ some (curPeriod s) then
    irqRaise .rdg 0 { s with rdg := { s.rdg with irqPeriod := some (curPeriod s) } }
  else countUp (reg .rdg 0x0B8) 1 s

/-- Whether a pass has neither begun phase 5 nor applied its COMMIT (R334). -/
def beforeCommit (c : Ctx) : Bool :=
  match c.phase with
  | .commit => false
  | .doneWrite => false
  | .ending => false
  | _ => true

/-- A group fault raised about the step of context `i`: before its commit the step is abandoned, and the Summit
tells the group (R334). -/
def stepFault (i code shard : Nat) (miss : List Nat) (m : Measure) (s : Block) : Block :=
  match ctxOf s i with
  | none => s
  | some c =>
    let tell := isSummit s c.bank && beforeCommit c
    let s := groupFault code shard c.num c.bank miss s
    let s := if tell then
        sendOf c 8 0 none false (fun _ => true) (leBytes 1 code ++ leBytes 1 shard ++ zeros 2) s
      else s
    if beforeCommit c then abandonStep i .groupAbandoned m s else s

end Sys2Proof.Machine
end

