-- ==== Sys2Proof/Machine/Launch.lean ====
section
/-! DEFINITION. Count words, launch entries and the launch of a step (R48, R49, R61 to R75, R83, R324, R335, R340,
R392, R397, R439): what a step boundary does and the pass context it sets up. -/

namespace Sys2Proof.Machine

/-! ## Count words (R48, R49, R69) -/

/-- The eight check bits of a word as sent: k7 in tick 65 down to k0 in tick 72. -/
def wordCheck (w : BitVec 72) : Nat :=
  (upto 8).foldl (fun n i => n + b2n (w.getLsbD (64 + i)) * 2 ^ (7 - i)) 0

/-- Count of a word: tick t carries count bit t − 1. -/
def wordCount (w : BitVec 72) : Nat := w.toNat % 2 ^ 64

/-- A word is discarded (R49). -/
def badWord (s : Block) : Block :=
  countUp (reg .mer 0x094) 1 (watchAligned (fun s => { s with goodRun := 0 }) s)

/-- Entries that a new current count makes due (R65, R66): one that is due already stays due, also where a discontinuous
word lowers the count below its own (DEDUCED, log entry 113). -/
def markDue (c : Nat) (l : List LaunchEnt) : List LaunchEnt :=
  l.map fun e => if e.dueAt.isNone && decide (e.count ≤ c) then { e with dueAt := some c } else e

/-- A valid count becomes the current one: it is reported to the meter, with IDLE at a change of period (R419,
R422). -/
def takeCount (c : Nat) (s : Block) : Block :=
  let next := match s.count with
    | some p => decide (c = (p + 1) % 2 ^ 64)
    | none => true
  let run := match s.count with
    | some _ => if next then min 16 (s.goodRun + 1) else 1
    | none => 1
  let change := match s.count with
    | some p => decide (periodOf s p ≠ periodOf s c)
    | none => false
  let s := watchAligned (fun s => { s with goodRun := run }) s
  let s := if next then s else irqRaise .mer 1 (flagRaise .mer 1 s)
  let s := { s with count := some c, launchQ := markDue c s.launchQ }
  let s := strobe (.count c (periodOf s c)) s
  if change then strobe .idle s else s

/-- MERIDIAN_WORD: its ticks show that mc_tick runs. -/
def meridianWord (w : BitVec 72) (s : Block) : Block :=
  let s := { s with mcTick := true }
  if s.pwr.rstLow then s
  else if (crc8 64 (wordCount w) 0).toNat = wordCheck w then takeCount (wordCount w) s
  else badWord s

/-- mc_sync rises inside an open word (R49). -/
def syncInWord (s : Block) : Block :=
  let s := { s with mcTick := true }
  if s.pwr.rstLow then s else badWord s

/-! ## Launch queue (R63, R64) -/

/-- LAUNCH_PUSH written with PUSH at 1. -/
def launchPushed (w : Word) (s : Block) : Block :=
  let c := (wr s (reg .mer 0x080)).toNat + (wr s (reg .mer 0x084)).toNat * 2 ^ 32
  let low := match s.launchQ.getLast? with
    | some e => decide (c ≤ e.count)
    | none => false
  let past := match s.count with
    | some n => decide (c ≤ n)
    | none => false
  if decide (8 ≤ s.launchQ.length) || decide (2 ≤ bits w 2 1) || low || past then
    irqRaise .mer 0 (flagRaise .mer 0 s)
  else
    { s with launchQ := s.launchQ ++ [{ count := c, refine := bits w 2 1 = 1, preempt := bit w 3, dueAt := none }] }

/-! ## Ability to launch (R65, R66, R81, R326, R409) -/

/-- The newest due entry. -/
def newestDue (s : Block) : Option LaunchEnt := (s.launchQ.filter fun e => e.dueAt.isSome).getLast?

/-- A free pass context. -/
def freeCtx (s : Block) : Option Nat := (upto 2).find? fun i => (ctxOf s i).isNone

/-- Whether the block is able to launch an entry: mc_tick runs (R49), and a formation that has begun has ended (R255). -/
def canLaunch (e : LaunchEnt) (s : Block) : Bool :=
  s.mcTick && !s.pwr.rstLow && s.pwr.src ≠ .start && !s.resetting && !s.pwr.stop && (freeCtx s).isSome &&
  !(formingNow s && s.formed.isNone) &&
  (match runCtx s with
   | none => true
   | some c => e.preempt && preemptable c.2)

/-! ## The boundary (R61, R83, R118, R277, R340, R434, R439) -/

/-- A page soft reset takes effect (R434). That of PWR puts STATE_REQ back to 000, which is no request of RUN: the power state
stays (R398; DEDUCED, log entry 156). -/
def pageResetNow (b : Nat) (s : Block) : Block :=
  let kept (a : Nat) : Bool := decide (a < b) || decide (b + 0x1000 ≤ a) || s.reg.sinceReset.contains a
  let s := { s with reg := { s.reg with
    written := s.reg.written.filter fun e => kept e.1
    flags := tset zeroWord s.reg.flags b 0
    irq := tset zeroWord s.reg.irq b 0
    resetPend := s.reg.resetPend.filter fun p => p ≠ b
    sinceReset := s.reg.sinceReset.filter fun a => decide (a < b) || decide (b + 0x1000 ≤ a)
    stale := s.reg.stale || b = pageBase .sch || b = pageBase .req } }
  match pageAt (b / 0x1000) with
  | some .clk => autoState (usePll s)
  | some p => wakeRequest p s
  | none => s

/-- A new POOL_PAGES or PAGE_SHIFT is discarded while a request holds a page (R277), that of a REQ page reset too, whose values
stand as written ones (R434; DEDUCED, log entry 139). One written behind a page reset that still waits is not judged yet. -/
def poolGuard (a : Nat) (s : Block) : Block :=
  if s.used.isEmpty || s.reg.sinceReset.contains a || tget resetVal s.reg.written a = tget resetVal s.reg.inForce a then s
  else badParam .req (setWr a (tget resetVal s.reg.inForce a) s)

/-- Directory entries `[lo, hi)` come into use: each reads as FREE, whatever a REQ page soft reset had left in it (R471).
DEDUCED, log entry 98. -/
def dirsIntoUse (lo hi : Nat) (s : Block) : Block :=
  let ds := (s.dir.map fun e => e.1) ++ (s.dirHost.map fun e => e.1)
  (ds.filter fun d => decide (lo ≤ d) && decide (d < hi)).foldl (fun s d =>
    setDir d DirEntry.freed
      (freePages (dirAt s d).pages { s with dirHost := tset zeroWord s.dirHost d 0 })) s

/-- The RW-step values that a boundary puts in force: those written, but for registers written behind a page reset that still waits,
which keep their values until it has taken effect (R61, R434; DEDUCED, log entry 173). -/
def stepValues (r : RegSide) : Table Word :=
  r.sinceReset.foldl (fun t a => tset resetVal t a (tget resetVal r.inForce a)) r.written

/-- RW-step values take effect (R61 position 1). -/
def regsBoundary (s : Block) : Block :=
  let lo := spillN s
  let s := if anyPass s then s else s.reg.resetPend.foldl (fun s b => pageResetNow b s) s
  let s := poolGuard (reg .req 0x084) (poolGuard (reg .req 0x080) s)
  let s := { s with reg := { s.reg with inForce := stepValues s.reg } }
  dirsIntoUse lo (spillN s) s

/-- HALT clears at a boundary, and a parked sharded pass is abandoned (R335, R340). -/
def haltBoundary (m : Measure) (s : Block) : Block :=
  if !s.rdg.clearPend then s
  else
    let s := { s with rdg := { s.rdg with
      halt := false, resync := false, missing := [], gfault := 0, gshard := 0, clearPend := false } }
    ((ctxs s).filter fun c => c.2.parked && c.2.sharded).foldl
      (fun s c => abandonStep c.1 .groupAbandoned m s) s

/-- Everything of a boundary before the conditions of R68. Bank, epochs and repairs wait while a pass is parked (R83), or
runs on, where the PREEMPT entry of this boundary is then skipped (DEDUCED, log entry 125). -/
def boundary (m : Measure) (s : Block) : Block :=
  let s := regsBoundary (haltBoundary m s)
  let s := if anyPass s then setPwr (fun w => { w with rowsWait := [] }) s
    else repairsBoundary (epochBoundary (bankBoundary s))
  let s := if s.launched then s else irqRaise .glb 2 { s with launched := true }
  arrivals s

/-- The first condition of R68 that fails, with R335 as the fifth. -/
def skipReason (s : Block) : Option Nat :=
  if s.fault || s.pwr.src = .hold then some 1
  else if !powerOk s then some 2
  else if !s.cfg.activeValid || s.nArr = 0 then some 3
  else if bit (wr s (reg .glb 0x008)) 0 && !(s.pwr.pgMtr && s.mirror.sk = .sealed) then some 4
  else if shardsOf s s.cfg.active ≠ 1 && s.rdg.halt then some 5
  else none

/-- The boundary's work on tenants and the request table (R255, R285, R399). -/
def boundaryScan (launching : Bool) (s : Block) : Block :=
  let s := tenantBoundary s
  if scansRun s then scan launching s else s

/-- An entry is removed as SKIPPED (R68, R335): the digest of a step not COMMITTED is 0 (R357), and the controller sends
the STEP_END of a skipped step (R422). -/
def skipEntry (num reason : Nat) (s : Block) : Block :=
  irqRaise .sch 1 (strobe (.stepEnd num false) { s with
    rdg := { s.rdg with seen := some num }
    step := { s.step with
      outcome := .skipped, reason := reason, partialC := false, late := false, overrun := false
      unaligned := false, num := num, digest := 0, digestStep := num } })

/-! ## The pass (R62, R74, R75, R260, R265) -/

/-- A row of a pass before its data is in. -/
def freshRow : PRow :=
  { fetched := none, ready := false, removed := 0, act := [], scales := [], stats := none, adapted := false
    sel := Sel.empty, win := [], dec := none }

/-- Whether the step reads a request's draft block (R221): one that uses drafts, is not cancelled, and is not
suspended outside a probe step (R233, R268). A peer goes by the depth stated to it, where the Summit's copy and its own
differ in the cancel (R318). -/
def readsDraft (regs : Table Word) (s : Block) (q : BReq) : Bool :=
  let e := entryAt s q.entry
  q.kind = 0 && hSpecEn q.host &&
    (decide (0 < q.dstep) || (q.prev ≠ .cancelling && !e.gov.susp &&
      decide (depthOf (bits (rc regs (reg .req 0x08C)) 15 0) false q.host e = 0)))

/-- A request of a pass before its data is in. -/
def freshReq (regs : Table Word) (s : Block) (q : BReq) : PReq :=
  { entry := q.entry, drafts := if readsDraft regs s q then none else some [], toks := []
    dataIn := !(q.kind = 1 || readsDraft regs s q), stage := .idle, plan := none
    intent := false, counterOk := false, sent := [] }

/-- Exchange state at launch. -/
def freshExch (seen : Bool) : Exch :=
  { parts := [], toPull := [], pulling := false, naks := 0, anyNak := false, round := 0, rescan := [], windows := []
    walked := [], counted := false, pulled := false, batchSeen := seen }

/-- A batch with no request, for a peer until its BATCH comes. -/
def noBatch (refine : Bool) : Batch :=
  { seq := 0, refine := refine, reqs := [], rows := [], energy := 0, eraw := 0, classN := [0, 0, 0, 0], period := 0
    penEpoch := 0 }

/-- Whether a request is late in a step that is expected to end at count `e` (R260). -/
def lateIn (s : Block) (e : Nat) (q : BReq) : Bool :=
  let d := hDeadline q.host
  d ≠ 0 && decide (d ≤ e) && !(entryAt s q.entry).lateSeen

/-- Expected end count of a step launched from count `c` (R260). -/
def endCount (regs : Table Word) (c pred : Nat) : Nat := c + cdiv pred (rc regs (reg .req 0x090)).toNat

/-- Give a context its batch: rows, requests, published count and lateness. -/
def setBatch (b : Batch) (formed : Bool) (s : Block) (c : Ctx) : Ctx :=
  let pred := stepPred (capOf s c) b formed
  let e := endCount c.regs c.count pred
  let b := { b with reqs := b.reqs.map fun q => { q with late := lateIn s e q } }
  { c with batch := b, pred := pred, order := upto b.rows.length, rows := b.rows.map fun _ => freshRow, reqs := b.reqs.map (freshReq c.regs s)
           phase := if b.rows.isEmpty then .commit else .launching }

/-- A context as a boundary captures it (R62). -/
def captureCtx (e : LaunchEnt) (preempts sharded seen : Bool) (s : Block) : Ctx :=
  { num := e.count % 2 ^ 48, count := e.count, refine := e.refine, late := decide (e.count < curCount s)
    overrun := match e.dueAt with | some d => decide (d < curCount s) | none => false
    unaligned := !aligned s, preempt := preempts, regs := s.reg.inForce, bank := s.cfg.active
    selEp := s.epochs.active.take 4, progEp := s.epochs.active.getD 4 0, freqEp := s.epochs.active.getD 5 0
    nArr := s.nArr, rowsWait := s.pwr.rowsWait, sharded := sharded, batch := noBatch e.refine, phase := .launching, order := [], chunk := 0, tileT := 0
    tileG := 0, cbNext := 0, cbFold := 0, rows := [], work := [], halves := [], weights := [], wAsked := []
    adapters := [], adpAsked := false, adpAbsent := [], reqs := [], pred := 0, stall := 0, streak := 0, adpStreak := 0, rebuild := none, rebuilds := 0
    parkReq := false, parked := false, parkedByStop := false, everParked := false, finishTile := false
    partialC := false, ex := freshExch seen }

/-- Whether the batch formed in advance serves a launch (R75). -/
def servesLaunch (refine : Bool) (s : Block) (b : Batch) : Bool :=
  !s.reg.stale && b.refine = refine && b.penEpoch = s.epochs.active.getD 3 0

/-- The account takes the period of this boundary, a forming boundary (R405). -/
def accountNow (s : Block) : Block := accountPeriod (curPeriod s) s

/-- Form a batch at the boundary of its own launch (R74). -/
def formNow (num : Nat) (refine : Bool) (s : Block) : Block :=
  let s := accountNow s
  formBatch refine (baseNow num refine s) (s.epochs.active.getD 3 0) s

/-- The batch of a launch on the Summit or an unsharded block, and whether it was formed at the launch (R74,
R75). -/
def launchBatch (num : Nat) (refine : Bool) (s : Block) : Bool × Block :=
  match s.formed with
  | some b => if servesLaunch refine s b then (false, s) else (true, formNow num refine (discardFormed s))
  | none => (true, formNow num refine s)

/-- Write the step number into the header of the batch being launched (R265). -/
def writeLaunch (b : Batch) (num : Nat) (s : Block) : Block :=
  request true (descSlot (rf s) b.seq + 8) 8 (leBytes 8 num) 3 none .system none .descLaunch s

/-- Place a launched pass in its context: a running pass is asked to park (R81), and the snapshot for the next
formation is taken (R74). -/
def placePass (i remaining : Nat) (c : Ctx) (former : Bool) (s : Block) : Block :=
  let s := if s.running.isSome then requestPark false remaining s else s
  let s := setCtx i (some c) { s with
    running := some i, formed := if former then none else s.formed, 
    step := if former then { s.step with pred := c.pred } else s.step }
  let forms := former && !c.batch.rows.isEmpty
  let s := if forms then accountNow s else s
  let s := { s with
    rdg := { s.rdg with newest := some c.num, seen := some c.num }
    forming := if forms then some { baseNow c.num c.refine s with left := 0 } else none
    leftPages := 0 }
  if c.sharded && former then sendBatch c s else s

/-- Launch a step in context `i` (R70, R309, R324). A peer forms nothing: a batch that it formed in advance while it was no
peer is discarded (R75, R309). -/
def launchPass (i : Nat) (e : LaunchEnt) (remaining : Nat) (s : Block) : Block :=
  let sharded := shardsOf s s.cfg.active ≠ 1
  let former := !sharded || isSummit s s.cfg.active
  let c0 := captureCtx e s.running.isSome sharded former s
  if !former then placePass i remaining c0 false (discardFormed s)
  else
    let r := launchBatch c0.num e.refine s
    match r.2.formed with
    | none => r.2
    | some b =>
      let c := setBatch b r.1 r.2 c0
      placePass i remaining c true (writeLaunch b c.num r.2)

/-- LAUNCH: the newest due entry launches once the block is able (R65, R66, R70). A batch formed in advance that does not serve it
is undone after the boundary's tenant work and scan (R75, R255; DESIGN CHOICE, log entry 147). -/
def launchStep (remaining : Nat) (m : Measure) (s : Block) : Block :=
  match newestDue s with
  | none => s
  | some e =>
    if !canLaunch e s then s
    else
      let due := (s.launchQ.filter fun l => l.dueAt.isSome).length
      let s := missedUp (due - 1) { s with launchQ := s.launchQ.filter fun l => l.dueAt.isNone }
      let s := boundary m s
      let why := skipReason s
      let s := boundaryScan why.isNone s
      match why, freeCtx s with
      | some r, _ => skipEntry (e.count % 2 ^ 48) r s
      | none, some i => launchPass i e remaining s
      | none, none => s

/-! ## The guard (R70 to R72, R81, R325) -/

/-- Whether a pass is still draining toward its parking. -/
def draining (s : Block) : Bool := (ctxs s).any fun c => c.2.parkReq && !c.2.parked

/-- Whether the guard check is enabled for a pass. -/
def guardEn (c : Ctx) : Bool := bit (rc c.regs (reg .sch 0x008)) 0

/-- Whether a cube row that the repairs of a pass's own boundary need still waits for its ramp slot (R402). -/
def rowsPowering (s : Block) (c : Ctx) : Bool := s.pwr.ramp.any fun r => r.kind = 2 && c.rowsWait.contains r.index

/-- GUARD_CHECK_BEGIN: T_launch has ended, and so have the drain of a pass this step pre-empted and the ramp slot of a
cube row its boundary's repairs need. -/
def guardBegin (s : Block) : Block :=
  match runCtx s with
  | none => s
  | some (i, c) =>
    if c.phase ≠ .launching || draining s || rowsPowering s c || !c.ex.batchSeen then s
    else if guardEn c then askGuard i (setCtx i (some { c with phase := .guard }) s)
    else guardPassed i s

/-- Whether a guard read of context `i` is outstanding. -/
def guardAsked (i : Nat) (s : Block) : Bool := (s.mem.xfers ++ s.mem.done).any fun x => x.purpose = .guard i

/-- GUARD_POLL: the guard is read again (R72). -/
def guardAgain (s : Block) : Block :=
  match runCtx s with
  | none => s
  | some (i, c) => if c.phase = .guard && !c.parkReq && !guardAsked i s then askGuard i s else s

/-- GUARD_TIMEOUT: the guard has not passed in time (R72). -/
def guardLapse (m : Measure) (s : Block) : Block :=
  match runCtx s with
  | none => s
  | some (i, c) =>
    if (c.phase = .launching || c.phase = .guard) && guardEn c && !c.batch.rows.isEmpty then
      abandonStep i .guardTimeout m s
    else s

end Sys2Proof.Machine
end

