-- ==== Sys2Proof/Machine/Pass.lean ====
section
/-! DEFINITION. The tile phase of a pass (R80, R81, R102, R113 to R117, R125, R126, R152 to R159, R186 to R198,
R376): rows and adapters into the activation buffer, delivery blocks into the result buffer and the lanes, tile
boundaries, parity, and parking. -/

namespace Sys2Proof.Machine

/-- The pass the arrays work for: one that drains toward its parking, else the running one (R81). -/
def workCtx (s : Block) : Option (Nat × Ctx) :=
  match (ctxs s).find? fun c => c.2.parkReq && !c.2.parked with
  | some c => some c
  | none => runCtx s

/-- Whether a pass may still work on its tile: a request to park lets it finish only where R81 says so. -/
def mayWork (c : Ctx) : Bool := !c.parked && (!c.parkReq || c.finishTile)

/-! ## Rows (R99 to R105, R214) -/

/-- A row removed for a value that is not finite, and counted (R102). -/
def removeNonfinite (i r : Nat) (s : Block) : Block := countUp (reg .sfu 0x088) 1 (modCtx i (removeRow 0x08 r) s)

/-- Gain values of a bank. -/
def gains (s : Block) (b : Nat) : List Word := (upto (bankH s b)).map (bankGain s b)

/-- Row statistics of a row's elements (R214, R215). -/
def rowStats (xs : List Val) : Stats :=
  let v := statValues (xs.map rd)
  ⟨v.1, v.2.1, v.2.2.1, v.2.2.2⟩

/-- Put a normalised row into the activation buffer (R100, R104, R105). A row normalised again counts its saturated elements
again (DEDUCED, log entry 116). -/
def putRow (i r : Nat) (c : Ctx) (xs : List Val) (ys : List Word) (s : Block) : Block :=
  let q := quant (ctxAct c) ys
  countUp (reg .sfu 0x084) q.2.2
    (modCtx i (modRow r fun p => { p with
      ready := true, adapted := false, act := q.1, scales := q.2.1
      stats := if capStats c && c.ex.round = 0 then some (rowStats xs) else p.stats }) s)

/-- A row repaired after an activation parity error goes through its adapter again (R117). -/
def advanceRepair (i : Nat) (s : Block) : Block := askRepair i (advanceChunk i s)

/-- ROW_NORMALISED. -/
def rowNormal (r : Nat) (s : Block) : Block :=
  match workCtx s with
  | none => s
  | some (i, c) => match c.rows[r]? with
    | none => s
    | some p => match p.fetched with
      | none => s
      | some bs =>
        if p.ready || p.removed ≠ 0 || !mayWork c then s
        else
          let xs := rowElems (capInFmt c) (bankH s c.bank) bs
          advanceRepair i (match normValues (capCompat c) (capRms c) (bankEps s c.bank) (gains s c.bank) xs with
            | none => removeNonfinite i r s
            | some ys => putRow i r c xs ys s)

/-! ## Adapters (R125, R126) -/

/-- One row through the adapter at the head of the chunk's list. -/
def adaptOne (i t slot : Nat) (w : List Byte) (r : Nat) (s : Block) : Block :=
  match ctxOf s i with
  | none => s
  | some c => match c.rows[r]?, c.batch.rows[r]? with
    | some p, some b =>
      if !namesAdapter c.batch t slot b || p.adapted || !p.ready || p.removed ≠ 0 then s
      else
        let d := adpDesc c.regs t slot
        let y := adaptRow (capCompat c) (ctxAct c) (adpFmt d.fmt) d.r (bankH s c.bank) d.act d.alpha w p.act p.scales
        countUp (reg .sfu 0x084) y.2 (match y.1 with
          | none => removeNonfinite i r s
          | some q => modCtx i (modRow r fun p => { p with adapted := true, act := q.1, scales := q.2 }) s)
    | _, _ => s

/-- Array that takes panel `n` of an adapter: by its column group in D or in U (R109, R123). -/
def adapterArray (s : Block) (c : Ctx) (r n : Nat) : Nat :=
  let units := bankH s c.bank / 64
  let down := 2 * r / 64 * units
  let q := if n < down then n / units else (n - down) / (r / 64)
  s.arrays.getD (q % c.nArr) 0

/-- A panel of an adapter read from the weight stage with wrong parity: absent until it is fetched again (R117). -/
def adapterPanelBad (i : Nat) (c : Ctx) (t slot n : Nat) (s : Block) : Block :=
  let d := adpDesc c.regs t slot
  let p := panelBytes (adpFmt d.fmt)
  if adpBytes (adpFmt d.fmt) d.r (bankH s c.bank) ≤ n * p then s
  else
    request false (d.addr + n * p) p [] 0 (some t) (.tenant t) (some i) (.adapterPanel i t slot n)
      (setCtx i (some { c with adpAbsent := c.adpAbsent ++ [n] }) (refetchUp (adapterArray s c d.r n) s))

/-- A row group's run of an adapter abandoned for parity: nothing of it is written back, and the third in succession is
fatal (R117). -/
def adapterAgain (i array : Nat) (s : Block) : Block :=
  match ctxOf s i with
  | none => s
  | some c =>
    if 2 ≤ c.adpStreak then fatal 0x03 array s else setCtx i (some { c with adpStreak := c.adpStreak + 1 }) s

/-- An activation row that failed is fetched, normalised and adapted again (R117). -/
def refetchRow (i r : Nat) (s : Block) : Block :=
  match ctxOf s i with
  | none => s
  | some c =>
    let b := c.batch.rows.getD r padRow
    let more := (adaptersOf c.batch [b]).filter fun a => !c.adapters.any fun x => x.1 = a.1 && x.2.1 = a.2
    let c := modRow r evictRow c
    askRow i r (setCtx i (some { c with adapters := c.adapters ++ more.map fun a => (a.1, a.2, none) }) s)

/-- The adapter at the head of the chunk's list runs over the chunk's rows that name it. -/
def adapterRuns (i t slot : Nat) (w : List Byte) (rest : List (Nat × Nat × Option (List Byte))) (c : Ctx) (s : Block) :
    Block :=
  let s := (chunkIdx s c).foldl (fun s r => adaptOne i t slot w r s) s
  advanceRepair i (modCtx i (fun c => { c with adapters := rest, adpAsked := false, adpStreak := 0 }) s)

/-- The adapter the arrays can run now: its weights are in, every panel of it, and its rows are in the buffer. -/
def adapterHere (s : Block) : Option (Nat × Ctx × Nat × Nat × List Byte × List (Nat × Nat × Option (List Byte))) :=
  match workCtx s with
  | none => none
  | some (i, c) => match c.adapters with
    | (t, slot, some w) :: rest =>
      if !mayWork c || !c.adpAbsent.isEmpty || !chunkIn s c then none else some (i, c, t, slot, w, rest)
    | _ => none

/-- ADAPTER_RUN. -/
def adapterRun (s : Block) : Block :=
  match adapterHere s with
  | none => s
  | some (i, c, t, slot, w, rest) => adapterRuns i t slot w rest c s

/-- Whether the run of an adapter reads row `r`: a row of the chunk in a row group of which some row names it (R117,
R126). -/
def adapterReads (s : Block) (c : Ctx) (t slot r : Nat) : Bool :=
  let l := chunkIdx s c
  let g := l.idxOf r / 64
  l.contains r && (rowEntry c r).isSome &&
    ((l.drop (64 * g)).take 64).any fun k => namesAdapter c.batch t slot (c.batch.rows.getD k padRow)

/-- A parity mismatch in the run of the adapter that the arrays work on (R117). -/
def adapterParity (p : AdapterParity) (s : Block) : Block :=
  match adapterHere s with
  | none => s
  | some (i, c, t, slot, _, _) => match p with
    | .panel n => adapterPanelBad i c t slot n s
    | .activation r =>
      if adapterReads s c t slot r then
        refetchRow i r (adapterAgain i 0 (replayUp 0 s))
      else s
    | .array n => if s.arrays.contains n then adapterAgain i n (replayUp n s) else s

/-! ## Delivery blocks (R110, R113, R115, R117) -/

/-- Frozen cycles and their causes (R115). -/
def countFreeze (i frozen : Nat) (freeze : List Nat) (s : Block) : Block :=
  let s := modCtx i (fun c => { c with stall := c.stall + frozen }) s
  (upto freeze.length).foldl (fun s n => countUp (reg (.ary n) 0x084) (freeze.getD n 0) s) s

/-- Scores of the rows of the present tile for column block `w` (R110). -/
def blockScores (s : Block) (c : Ctx) (w : WeightBlk) : List (List Word) :=
  let wf := ctxWgt s c
  let af := ctxAct c
  let cols := groupCols wf w.bytes (bankH s c.bank / 64) c.nArr
  (tileIdx s c).map fun r =>
    match c.rows[r]? with
    | some p =>
      if p.ready && p.removed = 0 then projectRow (cubeMode af wf) (actOperand af p.act p.scales) cols else []
    | none => []

/-- Whether everything the present tile reads is in the activation buffer. -/
def tileReady (s : Block) (c : Ctx) : Bool := chunkIn s c && c.adapters.isEmpty

/-- A panel read back with wrong parity: marked absent and fetched again (R117). -/
def panelBad (i : Nat) (c : Ctx) (b : BadPanel) (s : Block) : Block :=
  if b.q / c.nArr ≠ c.cbNext then s
  else
    let g := weightGroup s c
    let s := refetchUp (s.arrays.getD (b.q % c.nArr) 0) s
    let s := modCtx i (fun c => { c with weights := c.weights.map fun w =>
      if w.t = c.tileT && w.g = g && w.cb = c.cbNext then { w with absent := w.absent ++ [(b.q % c.nArr, b.u)] }
      else w }) s
    askPanel i c.tileT g c.cbNext (b.q % c.nArr, b.u) s

/-- Whether this tile ends the rebuild of its row group (R376). -/
def rebuilt (c : Ctx) : Bool :=
  match c.rebuild with
  | some (t, _) => decide (t ≤ c.tileT)
  | none => false

/-- The tile after the present one: the next column tile of a rebuild, or that of R78 order; none when the pass has run
its last. -/
def nextTile (s : Block) (c : Ctx) : Option (Nat × Nat × Nat) :=
  if c.rebuild.isSome && !rebuilt c then some (c.chunk, c.tileT + 1, c.tileG)
  else if c.rebuild.any (·.2) then none
  else if c.tileG + 1 < chunkGroups s c then some (c.chunk, c.tileT, c.tileG + 1)
  else if c.tileT + 1 < colTiles (bankVocab s c.bank) then some (c.chunk, c.tileT + 1, 0)
  else if c.chunk + 1 < (ctxChunks s c).length then some (c.chunk + 1, 0, 0)
  else none

/-- Ask for the column block two behind block `cb` of a streamed slice: of the present tile, or of the next tile of the
chunk (R22, R79). -/
def askAhead (i : Nat) (c : Ctx) (cb : Nat) (s : Block) : Block :=
  if cb + 2 < tileBlocks c then askWeights i c.tileT c.tileG (cb + 2) s
  else match nextTile s c with
    | some (ch, t, g) => if ch = c.chunk then askWeights i t g (cb + 2 - tileBlocks c) s else s
    | none => s

/-- A delivery block enters a half of the result buffer; a streamed slice moves on (R22, R79, R108, R113). -/
def deliverBlock (i : Nat) (c : Ctx) (w : WeightBlk) (s : Block) : Block :=
  let g := weightGroup s c
  let s := setCtx i (some { c with
    halves := c.halves ++ [{ cb := c.cbNext, scores := blockScores s c w }], cbNext := c.cbNext + 1
    weights := if streamed s c then c.weights.filter (fun x => !(x.t = c.tileT && x.g = g && x.cb = c.cbNext))
               else c.weights }) s
  if streamed s c then askAhead i c c.cbNext s else s

/-- The column block that the arrays can work on now, if any. -/
def blockNow (s : Block) (c : Ctx) : Option WeightBlk :=
  if !mayWork c || tileBlocks c ≤ c.cbNext || 2 ≤ c.halves.length || !tileReady s c then none
  else blockHere c c.tileT (weightGroup s c) c.cbNext

/-- Whether the arrays run for a pass: its tiles, or before them its adapters. -/
def arraysRun (c : Ctx) : Bool := !c.parked && (c.phase = .tiles || (c.phase = .prologue && !c.adapters.isEmpty))

/-- DELIVERY_BLOCK. The frozen cycles up to this point of the tile, or of an adapter's run, count in either case: where no
block can be delivered they are all the command reports (R115, R117; log entry 100). -/
def deliveryBlock (frozen : Nat) (freeze : List Nat) (bad : Option BadPanel) (s : Block) : Block :=
  match workCtx s with
  | none => s
  | some (i, c) =>
    if !arraysRun c then s
    else
      let s := countFreeze i frozen freeze s
      match (if c.phase = .tiles then blockNow s c else none), bad, ctxOf s i with
      | some _, some b, some c => panelBad i c b s
      | some w, none, some c => deliverBlock i c w s
      | _, _, _ => s

/-! ## The lanes (R152 to R159, R186 to R198) -/

/-- What a lane does with the columns of one block beside the transforms. -/
structure LaneJob where
  compat : Bool
  k      : Nat
  vocBase : Nat
  /-- Noise stream of a free-sampling row: its source, its draw base, and the columns it leaves out. -/
  stream : Option (NoiseSrc × Nat × List (Nat × Word))
  deriving DecidableEq, Repr

/-- One column of the noise stream, with NaN and saturation counts. -/
def streamTake (j : LaneJob) (acc : Option (Word × Nat × Word) × Nat × Nat) (e : Nat × Word) :
    Option (Word × Nat × Word) × Nat × Nat :=
  match j.stream with
  | none => acc
  | some (n, base, out) =>
    if (listQ out (j.vocBase + e.1)).isSome then acc
    else
      let g := noiseOf n (base + j.vocBase + e.1)
      let y := noisy e.2 g.1
      (bestTake acc.1 y.1 e.1 e.2, acc.2.1 + b2n g.2, acc.2.2 + b2n y.2)

/-- A row's select state after a delivery block of final scores `xs` from local column `v0` on, of block width
`w`, with NaN and saturation counts of its noise. -/
def foldSel (j : LaneJob) (v0 w : Nat) (xs : List Word) (z : Sel) : Sel × Nat × Nat :=
  let fin : List (Nat × Word) := ((upto xs.length).zip xs).filterMap fun e =>
    if e.2 = negInf then none else some (v0 + e.1, e.2)
  let p := foldPair j.compat (z.m, z.s) (blockPair j.compat (xs ++ List.replicate (w - xs.length) negInf))
  let b := fin.foldl (streamTake j) (z.best, 0, 0)
  ({ heap := fin.foldl (fun h e => heapTake j.k h e.2 e.1) z.heap, nfin := z.nfin + fin.length, m := p.1, s := p.2
     best := b.1, fin := z.fin ++ fin }, b.2.1, b.2.2)

/-- A row's window after a delivery block of final scores `xs` from local column `v0` on: a heap of `size` that admits
only columns ranking after the boundary and not below the threshold (R204 step 3). -/
def foldWin (size vocBase v0 : Nat) (w : Nat × Word × Word × Word) (xs : List Word) (h : List (Word × Nat)) :
    List (Word × Nat) :=
  ((upto xs.length).zip xs).foldl (fun h e =>
    if e.2 = negInf || !ranksBefore (w.2.1, bits w.2.2.1 21 0) (e.2, vocBase + v0 + e.1) || flt e.2 w.2.2.2 then h
    else heapTake size h e.2 (v0 + e.1)) h

/-- The noise stream of a row: the maximum of R198, or the residual of R226 below DS (R223). -/
def rowStream (s : Block) (c : Ctx) (q : BReq) (pq : PReq) (b : BRow) :
    Option (NoiseSrc × Nat × List (Nat × Word)) :=
  if q.kind = 1 || !freeKind (samplingOf q.host) then none
  else
    let early := decide (b.slot < (draftsOf pq).length) && q.kind = 0
    some (noiseSrc s c q b, if early then 0x40000000 else 0, if early then listOf_ pq b else [])

/-- SMP.NOISE_NAN and its interrupt (R194). -/
def noiseNan (n : Nat) (s : Block) : Block :=
  if n = 0 then s else irqRaise .smp 1 (countUp (reg .smp 0x08C) n s)

/-- What the lane of row `r` makes of a delivery block of final scores: its select state, or in a rescan round its
window, with NaN and saturation counts of its noise (R189, R204). -/
def laneFold (s : Block) (c : Ctx) (q : BReq) (pq : PReq) (b : BRow) (r v0 : Nat) (xs : List Word) (z : Sel) :
    Sel × Nat × Nat :=
  if c.ex.round = 0 then
    let job : LaneJob := { compat := capCompat c, k := hCandK q.host, vocBase := bankVocBase s c.bank
                           stream := rowStream s c q pq b }
    foldSel job v0 (64 * c.nArr) xs z
  else match c.ex.rescan.find? fun w => (decidedIdx c)[w.1]? = some r with
    | some w =>
      ({ z with heap := foldWin (windowSize c.sharded (bankVocab s c.bank) c.ex.rescan.length) (bankVocBase s c.bank) v0 w xs z.heap },
       0, 0)
    | none => (z, 0, 0)

/-- One row of a delivery block through its lane: the row's place in the tile, its scores, and those of its odd row. NaN and
saturated scores of a rescan round count again, and so do those of a tile that is run again (R153; DEDUCED, log entries 135 and
160). -/
def foldRow (i k cb : Nat) (raw : List Word) (odd : List Word) (s : Block) : Block :=
  match ctxOf s i with
  | none => s
  | some c =>
    let r := (tileIdx s c).getD k c.rows.length
    match c.batch.rows[r]?, c.work[k]? with
    | some b, some z => match b.entry with
      | none => s
      | some e => match breqOf c.batch e, preqOf c e with
        | some q, some pq =>
          if b.uncond || rowCause c r ≠ 0 then s
          else
            let v0 := c.tileT * 1024 + cb * (64 * c.nArr)
            let rs := rowScore s c q pq b (entryAt s e)
            let pair := match c.batch.rows[r + 1]? with
              | some o => o.uncond
              | none => false
            let n := min raw.length (bankVocab s c.bank - v0)
            let ls := (upto n).map fun j =>
              laneScore s.stores rs (v0 + j) (raw.getD j 0) (if pair then some (odd.getD j 0) else none)
            let f := laneFold s c q pq b r v0 (ls.map (·.x)) z
            let s := setCtx i (some { c with work := setNth c.work k f.1 }) s
            let s := countUp (reg .sel 0x088) ((ls.map (·.nan)).sum) s
            noiseNan f.2.1 (countUp (reg .sel 0x08C) ((ls.map (·.sat)).sum + f.2.2) s)
        | _, _ => s
    | _, _ => s

/-- DELIVERY_FOLD: the lanes take the oldest delivery block. The cycles the lanes froze the arrays count in either case
(R115; log entry 100). -/
def deliveryFold (freeze : Nat) (s : Block) : Block :=
  match workCtx s with
  | none => s
  | some (i, c) =>
    if c.phase ≠ .tiles || c.parked then s
    else
      let s := countUp (reg .sel 0x090) freeze (setCtx i (some { c with stall := c.stall + freeze }) s)
      match c.halves with
      | [] => s
      | h :: rest =>
        if !mayWork c then s
        else
        let s := modCtx i (fun c => { c with halves := rest, cbFold := h.cb + 1 }) s
        (upto h.scores.length).foldl (fun s k =>
          foldRow i k h.cb (h.scores.getD k []) (h.scores.getD (k + 1) []) s) s

/-! ## Tile boundaries (R80, R117, R376) -/

/-- Run the present tile again from its start: a streamed slice is streamed again from its first block, and whatever the
stage held or was to hold leaves it for that (R29; DEDUCED, log entry 47). What the lanes counted of the abandoned run stays
counted (R153; DEDUCED, log entry 160). -/
def restartTile (i : Nat) (s : Block) : Block :=
  match ctxOf s i with
  | none => s
  | some c =>
    startTile i (modCtx i (fun c => { c with finishTile := false }) (if streamed s c then dropWeights i s else s))

/-- A tile abandoned for parity: three in succession are fatal (R117); a park or a working-copy mismatch in between neither
counts nor ends the succession (DEDUCED, log entry 47). -/
def abandonTile (i array : Nat) (s : Block) : Block :=
  match ctxOf s i with
  | none => s
  | some c =>
    if 2 ≤ c.streak then fatal 0x03 array s
    else restartTile i (setCtx i (some { c with streak := c.streak + 1 }) s)

/-- Put a row's working copy in place of its stored state (R80). -/
def storeSel (round : Nat) (z : Sel) (p : PRow) : PRow := if round = 0 then { p with sel := z } else { p with win := z.heap }

/-- Put the working copies in place of the stored state (R80). -/
def storeWork (s : Block) (c : Ctx) : Ctx :=
  let l := (tileIdx s c).zip c.work
  { c with
    rows := c.rows.mapIdx fun r p => match l.find? fun e => e.1 = r with
      | some e => storeSel c.ex.round e.2 p
      | none => p
    work := [], halves := [], cbNext := 0, cbFold := 0, streak := 0, finishTile := false
    rebuild := if rebuilt c then none else c.rebuild, rebuilds := if rebuilt c then 0 else c.rebuilds }

/-- The last tile of a pass, of a rescan round or of a rebuild after it is complete (R200, R204, R324). A Summit that has
begun to pull goes on where it was. -/
def tilesEnded (i : Nat) (again : Bool) (s : Block) : Block :=
  match ctxOf s i with
  | none => s
  | some c => if again && isSummit s c.bank then s else passEnded i s

/-- A tile is complete: the pass moves on in the order of R78. -/
def tileDone (i : Nat) (s : Block) : Block :=
  match ctxOf s i with
  | none => s
  | some c =>
    let nxt := nextTile s c
    let d := storeWork s c
    match nxt with
    | none =>
      let s := setCtx i (some { d with phase := .decide, weights := [] }) s
      if d.parkReq then s else tilesEnded i (c.rebuild.any (·.2)) s
    | some (ch, t, g) =>
      if ch ≠ c.chunk then
        let s := setCtx i (some { d with chunk := ch, tileT := 0, tileG := 0, phase := .prologue }) s
        if d.parkReq then s else startChunk i s
      else
        let s := setCtx i (some { d with tileT := t, tileG := g, weights := d.weights.filter fun w => t ≤ w.t }) s
        if d.parkReq then s else startTile i s

/-- Empty the stored state of the rows of the present tile: what a rebuild starts from (R376). -/
def emptyGroup (s : Block) (c : Ctx) : Ctx :=
  let l := tileIdx s c
  { c with rows := c.rows.mapIdx fun r p => if l.contains r then storeSel c.ex.round Sel.empty p else p }

/-- Rebuild row group `g` of the present chunk or round from an empty state: every column tile up to `t` runs again, and
the pass goes on from there, or is at its last tile again (R376). -/
def rebuildGroup (i g t : Nat) (ended : Bool) (hits : Nat) (s : Block) : Block :=
  match ctxOf s i with
  | none => s
  | some c =>
    let c := emptyGroup s { c with tileT := 0, tileG := g }
    startTile i (dropWeights i (setCtx i (some { c with
      phase := .tiles, rebuild := some (t, ended), rebuilds := hits, finishTile := false }) s))

/-- The stored state of row group `g` met a mismatch: the third one in a rebuild of it is fatal (R376). After the last tile
the group of the last chunk is rebuilt, and the decision waits (DEDUCED, log entry 120). -/
def storedBad (i g off : Nat) (c : Ctx) (s : Block) : Block :=
  let s := countUp (reg .sel 0x098) 1 s
  let last := colTiles (bankVocab s c.bank) - 1
  match c.rebuild with
  | some (t, ended) => if 2 ≤ c.rebuilds then fatal 0x04 off s else rebuildGroup i g t ended (c.rebuilds + 1) s
  | none => if c.phase = .decide then rebuildGroup i g last true 0 s else rebuildGroup i g c.tileT false 0 s

/-- Whether row group `g` has stored state that is read now: that of the present tile, or after the last tile any of the
last chunk. -/
def groupRead (s : Block) (c : Ctx) (g : Nat) : Bool :=
  (c.phase = .tiles && g = c.tileG) || (c.phase = .decide && decide (g < chunkGroups s c))

/-- TILE_COMPLETE. -/
def tileComplete (p : TileParity) (s : Block) : Block :=
  match p, workCtx s with
  | .region off, _ => fatal 0x04 off.toNat s
  | .received k, _ => rxBad k s
  | .adapter p, _ => adapterParity p s
  | _, none => s
  | .stored g off, some (i, c) => if mayWork c && groupRead s c g then storedBad i g off.toNat c s else s
  | p, some (i, c) =>
    if c.phase ≠ .tiles || !mayWork c then s
    else match p with
      | .clean => if c.cbNext = tileBlocks c && c.halves.isEmpty then tileDone i s else s
      | .activation r =>
        if (tileIdx s c).contains r && (rowEntry c r).isSome then refetchRow i r (abandonTile i 0 (replayUp 0 s))
        else s
      | .array n => if s.arrays.contains n then abandonTile i n (replayUp n s) else s
      | _ => restartTile i (countUp (reg .sel 0x094) 1 s)

/-! ## Parking (R81, R409) -/

/-- PASS_PARK: the arrays and lanes have drained. The weight stage goes to the other pass with all it held (R29, R82). -/
def passPark (s : Block) : Block :=
  match (ctxs s).find? fun c => c.2.parkReq && !c.2.parked with
  | none => s
  | some (i, c) =>
    if c.finishTile then s
    else
      let s := dropFetches i (setCtx i (some { c with
        parked := true, everParked := true, work := [], halves := [], weights := [], wAsked := [], adpAsked := false
        cbNext := 0, cbFold := 0, parkReq := false
        adpAbsent := [], adapters := c.adapters.map fun a => (a.1, a.2.1, none) }) s)
      resumeAny { s with running := if s.running = some i then none else s.running }

/-! ## Test draws (R216) -/

/-- GEN_GO written with GO at 1. -/
def genGo (s : Block) : Block := { s with step := { s.step with genBusy := true } }

/-- Whether a test draw may run now: no pass running, or the pass stands at a tile boundary, the one after its last
tile included. -/
def drawFree (s : Block) : Bool :=
  match runCtx s with
  | none => true
  | some (_, c) => match c.phase with
    | .launching => false
    | .guard => false
    | .prologue => false
    | .tiles => c.cbNext = 0 && c.halves.isEmpty
    | _ => true

/-- GEN_DRAW: the draw on GEN_CTR and GEN_KEY, read with COMPAT as the draw runs (DEDUCED, log entry 126); none while SMP's
clock is removed (R395) or the select domain is stopped (R18, R380). -/
def genDraw (s : Block) : Block :=
  if !s.step.genBusy || !drawFree s || gatedOut s .smp || !s.pwr.fastOn then s
  else
    let g (o i : Nat) : Word := wr s (reg .smp (o + 4 * i))
    let y := permute (fun i => g 0x090 i) (fun i => g 0x0A0 i)
    { s with step := { s.step with
        genBusy := false, genOut := [y.1, y.2.1, y.2.2.1, y.2.2.2]
        genGumbel := gumbelBuiltIn (bit (rf s (reg .sfu 0x08C)) 0) y.1 } }

end Sys2Proof.Machine
end

