-- ==== Sys2Proof/Machine/Decide.lean ====
section
/-! DEFINITION. The decision of a pass (R197 to R207, R223 to R229): what is known of every decided row, on one
block or merged over the shards of a group, the rescan rounds, and the run of a request. -/

namespace Sys2Proof.Machine

/-! ## What the decision knows of a row -/

/-- A decided row as the decision sees it; every column by its global index. -/
structure RowData where
  /-- Batch row, and its index among the decided rows. -/
  row    : Nat
  idx    : Nat
  /-- Record status it was removed with, 0 if none. -/
  cause  : Nat
  /-- L of R190; none with no finite score. -/
  l      : Option Word
  nfin   : Nat
  top    : List (Word × Nat)
  first  : Word × Nat
  best   : Option (Word × Nat × Word)
  /-- The residual stream of R223: y, column, score. -/
  resid  : Option (Word × Nat × Word)
  all    : List (Word × Nat)
  /-- Captured scores of the target and of the draft list (R188, R223). -/
  caught : List (Nat × Word)
  /-- Class words that came with the merged parts (R319). -/
  words  : List ClassWord
  deriving DecidableEq, Repr

/-- A row with nothing in it. -/
def RowData.none (r idx : Nat) : RowData :=
  { row := r, idx := idx, cause := 0, l := Option.none, nfin := 0, top := [], first := (negInf, 0), best := Option.none
    resid := Option.none, all := [], caught := [], words := [] }

/-- Whether a row is a free-sampling row of a slot below DS (R223). -/
def earlyRow (q : BReq) (pq : PReq) (b : BRow) : Bool :=
  q.kind = 0 && freeKind (samplingOf q.host) && decide (b.slot < (draftsOf pq).length)

/-- Columns whose scores a row captures: its target and its draft list. -/
def caughtCols (q : BReq) (pq : PReq) (b : BRow) : List Nat :=
  (match targetOf pq b (rowPlace q b) with
    | some t => [t]
    | none => []) ++ (listOf_ pq b).map (·.1)

/-- Candidates of a list: entries of score −inf are none (R320). -/
def realCands (l : List (Word × Word)) : List (Word × Nat) :=
  l.filterMap fun e => if e.1 = negInf then none else some (e.1, bits e.2 21 0)

/-- Candidates walked in rescan rounds so far, with their words (R205). -/
def walkedOf (c : Ctx) (idx : Nat) : List (Word × Word) :=
  match c.ex.walked.find? fun w => w.1 = idx with
  | some w => w.2
  | none => []

/-- A row of an unsharded pass. -/
def localData (s : Block) (c : Ctx) (q : BReq) (pq : PReq) (b : BRow) (p : PRow) (r idx : Nat) : RowData :=
  let z := p.sel
  let base := bankVocBase s c.bank
  let glob (l : List (Word × Nat)) := l.map fun e => (e.1, base + e.2)
  let top := glob z.heap
  let all := top ++ realCands (walkedOf c idx)
  let best := z.best.map fun w => (w.1, base + w.2.1, w.2.2)
  let early := earlyRow q pq b
  { row := r, idx := idx, cause := rowCause c r, l := logNorm (capCompat c) z.m z.s, nfin := z.nfin, top := top
    first := all.headD (negInf, 0), best := if early then none else best, resid := if early then best else none
    all := all, caught := (caughtCols q pq b).map fun v => (v, (scoreAt s c z v).getD negInf), words := [] }

/-- What shard `j` reports of decided row `idx`, batch row `r`. -/
def shardRow (s : Block) (c : Ctx) (j idx r : Nat) : Option PartRow :=
  if j = shardOf s c.bank then some (partRow s c r)
  else match c.ex.parts.find? fun p => p.1 = j with
    | some p => p.2.2[idx]?
    | none => none

/-- The rows of decided row `idx` of every shard, ascending (R203). -/
def shardRows (s : Block) (c : Ctx) (idx r : Nat) : List PartRow :=
  (upto (shardsOf s c.bank)).filterMap fun j => shardRow s c j idx r

/-- Class words a row record carries: that of the residual stream only where the record holds one, in a row below DS (R319,
R223). -/
def partWords (early : Bool) (p : PartRow) : List ClassWord :=
  ((if p.flags.testBit 0 then [p.tword] else []) ++ (if p.flags.testBit 1 then [p.bestWord] else []) ++
   (if p.flags.testBit 2 then [p.ownWord] else []) ++
   p.list.filterMap (fun e => if e.1 = negInf then none else some e.2) ++
   (if early && !p.flags.testBit 3 && p.m ≠ negInf then [p.residWord] else [])).map fun w => classWordOf w.toNat

/-- Captured score of draft-list entry `k`: −inf where no shard holds its column (R188, R224). -/
def listScore (ps : List PartRow) (k : Nat) : Word :=
  match ps.find? fun p => p.dlist.getD k 0x7FC00000 ≠ 0x7FC00000 with
  | some p => p.dlist.getD k negInf
  | none => negInf

/-- Captured target score over the shards. -/
def targetScore (ps : List PartRow) : Word :=
  match ps.find? fun p => p.flags.testBit 0 with
  | some p => p.tscore
  | none => negInf

/-- The larger maximum of two (R198). -/
def bestMerge (b : Option (Word × Nat × Word)) (e : Word × Nat × Word) : Option (Word × Nat × Word) :=
  bestTake b e.1 e.2.1 e.2.2

/-- Final score of the residual column that a shard names: its best fields give it; a record whose best fields do not name
that column leaves it open, a value of the request's row alone (R224, R342; log entries 1 and 101). -/
def residScoreOf (q : BReq) (b : BRow) (x : PartRow) : Word :=
  let gv := bits x.residWord 21 0
  if x.flags.testBit 1 && bits x.bestWord 21 0 = gv then x.bestX else Config.residScore q.reqId b.pos b.slot gv

/-- A row merged over the shards (R203, R224). -/
def mergeData (s : Block) (c : Ctx) (q : BReq) (pq : PReq) (b : BRow) (r idx : Nat) : RowData :=
  let ps := shardRows s c idx r
  let causes := ps.filterMap fun x => if x.flags.testBit 3 then some (nbits x.flags 11 8) else none
  let good := ps.filter fun x => !x.flags.testBit 3
  let pair := ps.foldl (fun a x => foldPair (capCompat c) a (x.m, x.s)) (negInf, 0)
  let top := ps.foldl (fun a x => rankMerge (hCandK q.host) a (realCands x.list)) []
  let early := earlyRow q pq b
  let lead := rankSort (good.filterMap fun x =>
    if x.m = negInf then none else some (x.m, bits (if early then x.residWord else x.bestWord) 21 0))
  { row := r, idx := idx
    cause := match causes with | [] => 0 | k :: ks => causeStatus (ks.foldl min k)
    l := logNorm (capCompat c) pair.1 pair.2, nfin := (ps.map (·.nfin)).sum, top := top
    first := (top ++ lead).headD (negInf, 0)
    best := if early then none else (good.filter fun x => x.flags.testBit 1).foldl
      (fun a x => bestMerge a (x.bestY, bits x.bestWord 21 0, x.bestX)) none
    resid := if early then (good.filter fun x => x.m ≠ negInf).foldl
        (fun a x => bestMerge a (x.residY, bits x.residWord 21 0, residScoreOf q b x)) none
      else none
    all := top ++ realCands (walkedOf c idx)
    caught := (match targetOf pq b (rowPlace q b) with | some t => [(t, targetScore good)] | none => []) ++
      (listOf_ pq b).mapIdx fun k e => (e.1, listScore good k)
    words := ps.flatMap (partWords early) ++ (walkedOf c idx).map fun e => classWordOf e.2.toNat }

/-- What is known of decided row number `idx`, batch row `r`. -/
def rowData (s : Block) (c : Ctx) (idx r : Nat) : RowData :=
  match c.rows[r]?, c.batch.rows[r]? with
  | some p, some b => match b.entry with
    | none => RowData.none r idx
    | some e => match breqOf c.batch e, preqOf c e with
      | some q, some pq => if c.sharded then mergeData s c q pq b r idx else localData s c q pq b p r idx
      | _, _ => RowData.none r idx
  | _, _ => RowData.none r idx

/-! ## Deciding (R197 to R201) -/

/-- Captured score of a column. -/
def caughtAt (d : RowData) (gv : Nat) : Word :=
  match d.caught.find? fun e => e.1 = gv with
  | some e => e.2
  | none => negInf

/-- The row as R197 to R200 read it. -/
def viewOf (d : RowData) (l : Word) : RowView :=
  { top := if d.top.isEmpty then [d.first] else d.top, nfin := d.nfin, all := d.all, l := l, best := d.best }

/-- The decision of a row: none for a prompt-chunk row, a removed row and one with no finite score. -/
def decideData (s : Block) (c : Ctx) (q : BReq) (b : BRow) (d : RowData) : Option Decided :=
  if q.kind = 1 || d.cause ≠ 0 then none
  else match d.l with
    | none => none
    | some l => some (decideRow (capCompat c) (samplingOf q.host) (noiseSrc s c q b) (viewOf d l))

/-- Whether the walk of a row has neither stopped nor used up its candidates (R199). -/
def walkOpen (compat : Bool) (p : Sampling) (d : RowData) (l : Word) : Bool :=
  let v := viewOf d l
  let w := walkOn compat p (minThr compat p (v.top.headD (negInf, 0)).1) l v.all
    { i := 0, cum := 0, set := [], stop := none }
  w.stop.isNone && decide (v.all.length < v.nfin)

/-- A row with its decision. -/
abbrev RowOut := RowData × Option Decided

/-- Every decided row of a pass with its decision. -/
def decideAll (s : Block) (c : Ctx) : List RowOut :=
  (decidedIdx c).mapIdx fun idx r =>
    let d := rowData s c idx r
    match c.batch.rows[r]? with
    | none => (d, none)
    | some b => match b.entry with
      | none => (d, none)
      | some e => match breqOf c.batch e with
        | some q => (d, decideData s c q b d)
        | none => (d, none)

/-! ## Verification (R225 to R228) -/

/-- The replacement of a rejected draft at a row (R226): index and score under the main row, with noise counts. -/
def replacement (s : Block) (c : Ctx) (q : BReq) (b : BRow) (list : List (Nat × Word)) (d : RowData) (z : Dec) :
    (Nat × Word) × Nat × Nat :=
  let compat := capCompat c
  let p := samplingOf q.host
  let n := noiseSrc s c q b
  if freeKind p then
    let cols : List (Word × Nat) := (list.map fun e => (caughtAt d e.1, e.1)).filter fun e => e.1 ≠ negInf
    let rs := cols.filterMap fun e => (residScore compat z.l fone list e.1 e.2).map fun x => (x, e.2)
    let b1 := bestOf n 0x40000000 rs
    let w := match b1.1 with
      | some x => bestMerge d.resid x
      | none => d.resid
    let pick : Nat × Word := match w with
      | some x => (x.2.1, if (listQ list x.2.1).isSome then caughtAt d x.2.1 else x.2.2)
      | none => match (bestOf n 0x40000000 cols).1 with
        | some x => (x.2.1, x.2.2)
        | none => (d.first.2, d.first.1)
    (pick, b1.2.1, b1.2.2)
  else
    let r := residualOf compat p n z list z.set
    let x := match z.set.find? fun e => e.2 = r.1 with
      | some e => e.1
      | none => z.x
    ((r.1, x), r.2.1, r.2.2)

/-- A token of a run with what its record carries (R242). -/
structure RunItem where
  tok  : RunTok
  x    : Word
  l    : Word
  cut  : Nat
  spilt : Bool
  data : RowData
  deriving DecidableEq, Repr

/-- An item of a run from the row of a slot. -/
def runItem (gv origin slot : Nat) (x : Word) (z : Dec) (d : RowData) : RunItem :=
  ⟨⟨gv, origin, slot⟩, x, z.l, z.cut, z.overflow, d⟩

/-- Record status of a row that is not decided (R228). -/
def failStatus (d : RowData) : Nat := if d.cause ≠ 0 then d.cause else 0x09

/-- The run of a request from slot `j` on (R227, R228): its tokens, and the row it failed at with the status. -/
def runFrom (s : Block) (c : Ctx) (q : BReq) : List RowOut → Nat → List Draft → List RunItem × Option (RowData × Nat)
  | [], _, _ => ([], none)
  | (d, dec) :: rest, j, ds =>
    match dec, c.batch.rows[d.row]? with
    | some z, some b => match ds with
      | [] => ([runItem z.dec.gv 0 j z.dec.x z.dec d], none)
      | t :: ts =>
        let qt := (listQ t.list t.token).getD 0
        let xt := caughtAt d t.token
        if acceptDraft (capCompat c) (samplingOf q.host) (noiseSrc s c q b) z.dec t.token qt xt then
          let r := runFrom s c q rest (j + 1) ts
          (runItem t.token 1 j xt z.dec d :: r.1, r.2)
        else
          let w := (replacement s c q b t.list d z.dec).1
          ([runItem w.1 2 j w.2 z.dec d], none)
    | _, _ => ([], some (d, failStatus d))

/-- Rows of a request among the decided ones, in row order. -/
def rowsOf (c : Ctx) (entry : Nat) (rows : List RowOut) : List RowOut :=
  rows.filter fun o => match c.batch.rows[o.1.row]? with
    | some b => b.entry = some entry
    | none => false

/-- Noise counts of the residual decisions of every slot below DS, reached or not (R229). -/
def residCounts (s : Block) (c : Ctx) (q : BReq) : List RowOut → List Draft → Nat × Nat
  | (d, dec) :: rest, t :: ts =>
    let r := residCounts s c q rest ts
    match dec, c.batch.rows[d.row]? with
    | some z, some b =>
      if (samplingOf q.host).greedy then r
      else
        let w := replacement s c q b t.list d z.dec
        (r.1 + w.2.1, r.2 + w.2.2)
    | _, _ => r
  | _, _ => (0, 0)

/-! ## Rescans (R204 to R206, R323) -/

/-- Rows of a decision that used a rescan. -/
def overRows (rows : List RowOut) : List (RowData × Dec) :=
  rows.filterMap fun o => match o.2 with
    | some z => if z.dec.overflow then some (o.1, z.dec) else none
    | none => none

/-- Count rescan rows and raise the interrupt (R206). -/
def rescanRowsUp (n : Nat) (s : Block) : Block :=
  if n = 0 then s else irqRaise .smp 0 (countUp (reg .smp 0x080) n s)

/-- Count rescan rounds. -/
def rescanRoundsUp (n : Nat) (s : Block) : Block := countUp (reg .smp 0x084) n s

/-- Count the cycles of rescan rounds: they are stall (R206). -/
def rescanCyclesUp (i n : Nat) (s : Block) : Block :=
  countUp (reg .smp 0x088) n (modCtx i (fun c => { c with stall := c.stall + n }) s)

/-- Request of a decided row. -/
def reqOfRow (c : Ctx) (r : Nat) : Option BReq :=
  match c.batch.rows[r]? with
  | some b => match b.entry with
    | some e => breqOf c.batch e
    | none => none
  | none => none

/-- The entry of a rescan round for a row: index, boundary and threshold (R204, R323). -/
def rescanRow (c : Ctx) (d : RowData) : Nat × Word × Word × Word :=
  let lastTop := d.top.getLast?.getD (negInf, 0)
  let word := match d.words.find? fun w => w.gv = lastTop.2 with
    | some w => w32 (classWord { w with committed := false })
    | none => w32 lastTop.2
  let bd := match (walkedOf c d.idx).getLast? with
    | some e => e
    | none => (lastTop.1, word)
  let thr := match reqOfRow c d.row with
    | some q => minThr (capCompat c) (samplingOf q.host) (d.top.headD (negInf, 0)).1
    | none => negInf
  (d.idx, bd.1, bd.2, thr)

/-- Start a rescan round: a Summit tells the group, and the tiles of the round begin (R204, R323). -/
def startRound (i : Nat) (rows : List (Nat × Word × Word × Word)) (s : Block) : Block :=
  match ctxOf s i with
  | none => s
  | some c =>
    let s := rescanRoundsUp 1 s
    beginRound i rows (if c.sharded then
      sendOf c 5 (c.ex.round + 1) none false (fun _ => true) (rescanPayload rows) s else s)

/-- Insert an entry of a window at its place in rank order. -/
def winInsert (e : Word × Word) : List (Word × Word) → List (Word × Word)
  | [] => [e]
  | f :: l => if afterBound e f then e :: f :: l else f :: winInsert e l

/-- Every shard's window of a row of the round with the size that makes it full. -/
def rowWindows (s : Block) (c : Ctx) (w : Nat × Word × Word × Word) : List (List (Word × Word) × Nat) :=
  let n := c.ex.rescan.length
  (windowOf s c w.1, windowSize c.sharded (bankVocab s c.bank) n) ::
  c.ex.windows.map fun x =>
    let vocab := match c.ex.parts.find? fun p => p.1 = x.1 with
      | some p => p.2.1
      | none => 0
    ((match x.2.find? fun e => e.1 = w.1 with | some e => e.2 | none => []), windowSize c.sharded vocab n)

/-- The candidates of a round that may be walked (R205), and whether every shard's are used up. -/
def roundWalk (s : Block) (c : Ctx) (w : Nat × Word × Word × Word) : List (Word × Word) × Bool :=
  let ws := rowWindows s c w
  let all := ws.foldl (fun l x => x.1.foldl (fun l e => winInsert e l) l) []
  let lasts := ws.filterMap fun x => if x.2 ≤ x.1.length then x.1.getLast? else none
  let keep := lasts.foldl (fun l b => l.filter fun e => !afterBound b e) all
  (keep, lasts.isEmpty)

/-- Enter what a round brought, and the rows whose candidates are used up. -/
def roundTaken (s : Block) (c : Ctx) : Ctx × List Nat :=
  let rs := c.ex.rescan.map fun w => (w.1, roundWalk s c w)
  let walked := rs.map fun r => (r.1, walkedOf c r.1 ++ r.2.1)
  let keep := c.ex.walked.filter fun w => !rs.any fun r => r.1 = w.1
  ({ c with ex := { c.ex with walked := keep ++ walked } },
   rs.filterMap fun r => if r.2.2 then some r.1 else none)

/-- Rows still in the rescan set: in it before, not used up, and the walk goes on. -/
def openRows (c : Ctx) (used : List Nat) (rows : List RowOut) : List RowData :=
  (overRows rows).filterMap fun o =>
    match reqOfRow c o.1.row, o.1.l with
    | some q, some l =>
      if (c.ex.round = 0 || c.ex.rescan.any fun w => w.1 = o.1.idx) && !used.contains o.1.idx &&
          walkOpen (capCompat c) (samplingOf q.host) o.1 l then some o.1 else none
    | _, _ => none

end Sys2Proof.Machine
end

