-- ==== Sys2Proof/Machine/Plan.lean ====
section
/-! DEFINITION. What a commit of a request will do (R163, R210 to R212, R227 to R237, R241 to R248, R266, R268):
its records, its position code, the tokens it commits and appends, its status; and the DECISION command. -/

namespace Sys2Proof.Machine

/-! ## Records (R241 to R245) -/

/-- A record before its flags, STEP and SEQ are put in. -/
structure Rec where
  kind   : Nat
  status : Nat
  flags  : Nat
  b12    : Nat
  pos    : Nat
  b20    : Nat
  b28    : Nat
  deriving DecidableEq, Repr

/-- Whether a status sets FINAL (R243). -/
def finalStatus (st : Nat) : Bool := (1 ≤ st && st ≤ 5) || (0x10 ≤ st && st ≤ 0x17)

/-- FLAGS bits every record of the request carries in this step (R244). -/
def commonFlags (c : Ctx) (q : BReq) : Nat :=
  64 * b2n q.late + 128 * b2n c.late + 256 * b2n c.overrun + 512 * b2n c.unaligned

/-- The records of a commit as bytes without SEQ; the last one is COMMIT_END (R244). -/
def sealRecs (c : Ctx) (q : BReq) (e : Entry) (code : Bool) (depth : Nat) (l : List Rec) : List (List Byte) :=
  l.mapIdx fun i r =>
    let last := i + 1 = l.length
    let fl := r.flags + commonFlags c q + b2n (finalStatus r.status) +
      (if last then 2 + 16 * e.nextSlot + 1024 * b2n code + (if q.kind = 2 then 0 else 2048 * depth) else 0)
    (recordBytes 0 e.reqId r.kind r.status fl r.b12 r.pos r.b20 c.num r.b28).drop 4

/-- The STATS record of a row, where it has statistics: a row removed after they were computed keeps them (R214, R215,
R245). -/
def statsRec (c : Ctx) (d : RowData) (pos : Nat) : List Rec :=
  match c.rows[d.row]? with
  | some p => match p.stats with
    | some st => [⟨2, 0, 0, st.mean.toNat, pos, b2n st.clamp + 2 * b2n st.ovf, st.var.toNat⟩]
    | none => []
  | none => []

/-- Class word of a committed token (R175, R319): in a group that which a shard's record gives it, or that of the block's own
slice (DEDUCED, log entry 52). -/
def tokenWord (s : Block) (c : Ctx) (words : List ClassWord) (gv : Nat) : ClassWord :=
  if c.sharded then
    match words.find? fun w => w.gv = gv with
    | some w => { w with committed := false }
    | none => wordOf s c gv
  else wordOf s c gv

/-! ## Stops (R235 to R237) -/

/-- The last `n` of a list. -/
def lastN {α : Type} (n : Nat) (l : List α) : List α := l.drop (l.length - n)

/-- The lowest enabled stop sequence that the generated tokens end with (R235). -/
def stopHit (s : Block) (c : Ctx) (q : BReq) (toks : List Nat) : Option Nat :=
  (upto 8).find? fun i =>
    let sq := stopSeq s c.bank (hStopSet q.host) i
    (hStopEn q.host).testBit i && !sq.isEmpty && decide (sq.length ≤ toks.length) && lastN sq.length toks = sq

/-- How far a run commits (R237): tokens committed, and the stop status, 0 if none. -/
def stopScan (s : Block) (c : Ctx) (q : BReq) (remaining : Nat) : List RunItem → List Nat → Nat → Nat × Nat
  | [], _, m => (m, 0)
  | it :: rest, tail, m =>
    let toks := tail ++ [it.tok.gv]
    match stopHit s c q toks with
    | some i => (m + 1, 0x10 + i)
    | none =>
      if remaining ≤ m + 1 then (m + 1, 0x01)
      else stopScan s c q remaining rest (lastN 15 toks) (m + 1)

/-! ## The position code (R149, R247) -/

/-- The axis positions after a commit: those the automaton has reached, or the new LEN. -/
def axisPos (q : BReq) (m : MaskSt) (len : Nat) : Nat × Nat × Nat :=
  if hAutoEn q.host then (m.t, m.y, m.x) else (len, 0, 0)

/-- Bytes of the position code of the request's set. -/
def codeOf (s : Block) (c : Ctx) (q : BReq) (pos : Nat × Nat × Nat) : List Byte :=
  let t := s.stores.freq
  let set := hPcodeSet q.host
  let d := freqDims t c.freqEp set
  let f : Fmt := match d.2.2.2.1 with
    | 0 => fp32
    | 1 => bf16
    | _ => fp16
  let w := if d.2.2.2.1 = 0 then 4 else 2
  let at_ (i : Nat) : Word := tget zeroWord t (c.freqEp * 32768 + set * 1024 + 4 + i)
  let axis (p lo n : Nat) := rotary (capCompat c) f p ((upto n).map fun i => at_ (lo + i))
  let pairs := axis pos.1 0 d.1 ++ axis pos.2.1 d.1 d.2.1 ++ axis pos.2.2 (d.1 + d.2.1) d.2.2.1
  if d.2.2.2.2 then pairs.flatMap (fun p => leBytes w p.1) ++ pairs.flatMap (fun p => leBytes w p.2)
  else pairs.flatMap fun p => leBytes w p.1 ++ leBytes w p.2

/-! ## Plans -/

/-- Where a cancelled request stands in its commit (R268): not cancelled, the CANCELLED commit, a later one. -/
inductive Cancelling where
  | no | record | silent
  deriving DecidableEq, Repr

/-- Cancel state of a request of a batch. -/
def cancelState (q : BReq) (e : Entry) : Cancelling :=
  if q.prev = .cancelling then (if e.cancelDone then .silent else .record) else .no

/-- The records a commit writes: its own, the one CANCELLED record, or none (R268). -/
def cancelRecs (k : Cancelling) (e : Entry) (l : List Rec) : List Rec :=
  match k with
  | .no => l
  | .record => [⟨0, 0x04, 0, 0, e.len, 0, 0⟩]
  | .silent => []

/-- Status of the last of the records. -/
def lastStatus (l : List Rec) : Nat :=
  match l.getLast? with
  | some r => r.status
  | none => 0

/-- Records of the tokens a run commits, the last with the stop status (R237, R242). -/
def tokenRecs (c : Ctx) (e : Entry) (status : Nat) : List RunItem → Nat → List Rec
  | [], _ => []
  | it :: rest, m =>
    let fl := (match it.tok.origin with | 1 => 4 | 2 => 8 | _ => 0) + 32 * b2n it.spilt
    let pos := (e.len + m) % 4294967296
    statsRec c it.data pos ++
      [⟨0, if rest.isEmpty then status else 0, fl, it.tok.gv + it.tok.slot * 2 ^ 24, pos, logpOf it.x it.l, it.cut⟩] ++
      tokenRecs c e status rest (m + 1)

/-- Whether some shard reports every row of a request removed with cause `k` or above (R320): what it read for the request
as a whole was refused or failed (log entry 64). -/
def shardLost (s : Block) (c : Ctx) (k : Nat) (rows : List RowOut) : Bool :=
  c.sharded && !rows.isEmpty && (upto (shardsOf s c.bank)).any fun j => rows.all fun o =>
    match shardRow s c j o.1.idx o.1.row with
    | some p => p.flags.testBit 3 && decide (k ≤ nbits p.flags 11 8)
    | none => false

/-- Whether the draft block of a drafted request was refused or could not be read, here or on another shard (R221,
R363). -/
def draftLost (s : Block) (c : Ctx) (q : BReq) (pq : PReq) (rows : List RowOut) : Bool :=
  pq.drafts.isNone || (0 < q.dstep && shardLost s c 3 rows)

/-- Whether shard `j` holds a column: its slice begins where those of the shards before it end (R305). -/
def shardHolds (s : Block) (c : Ctx) (j gv : Nat) : Bool :=
  let base := bankVocab s c.bank + ((c.ex.parts.filter fun p => p.1 < j).map fun p => p.2.1).sum
  c.ex.parts.any fun p => p.1 = j && decide (base ≤ gv) && decide (gv < base + p.2.1)

/-- Whether the tokens of a prompt chunk could not be read, here or on another shard: one that reports every row removed and
names none of the tokens it holds, though it holds some (R163, R319, R363; DEDUCED, log entry 121). -/
def chunkLost (s : Block) (c : Ctx) (pq : PReq) (rows : List RowOut) : Bool :=
  (pq.toks.isEmpty && rows.all fun o => rowCause c o.1.row = 0x0C) ||
  (c.sharded && (upto (shardsOf s c.bank)).any fun j =>
    j ≠ shardOf s c.bank && (pq.toks.take rows.length).any (shardHolds s c j) && rows.all fun o =>
      match shardRow s c j o.1.idx o.1.row with
      | some p => p.flags.testBit 3 && decide (3 ≤ nbits p.flags 11 8) && !p.flags.testBit 2
      | none => false)

/-- The plan of a generation commit (R227 to R237, R247): a commit whose entry fault ends the run, ALL_MASKED too, writes no
position code (DEDUCED, log entry 127). A record that carries a status in place of a token has zero in bytes 28 to 31, where
no row gives a CUT (R242; DEDUCED, log entry 138). -/
def planGen (s : Block) (c : Ctx) (q : BReq) (pq : PReq) (rows : List RowOut) : Plan :=
  let e := entryAt s q.entry
  let k := cancelState q e
  let built := !draftLost s c q pq (rowsOf c q.entry rows)
  let ds := if built then draftsOf pq else []
  let r := runFrom s c q (rowsOf c q.entry rows) 0 ds
  let cap := bits (rc c.regs (reg .req 0x08C)) 15 0
  let st := stopScan s c q (remainingOf cap (k ≠ .no) q.host e) r.1 e.tail 0
  let stop := st.2 ≠ 0
  let fail := if stop then none else r.2
  let done := r.1.take st.1
  let toks := done.map fun it => tokenWord s c it.data.words it.tok.gv
  let acc := (r.1.filter fun it => it.tok.origin = 1).length
  let g := if built then
      govStep (govTab c.regs (hGovTbl q.host)) (hSpecEn q.host) e.gov q.dstep ds.length acc
    else e.gov
  let ef := match fail with
    | some (_, 0x09) => efMasked
    | some (_, 0x0B) => efDraft
    | _ => 0
  let m := if hAutoEn q.host then
      toks.foldl (fun m w => autoMove s.stores (c.selEp.getD 1 0) (hAutoTbl q.host) m w.cls) e.mask
    else e.mask
  let code := if k = .no && !stop && ef = 0 && hPcodeEn q.host then
      codeOf s c q (axisPos q m ((e.len + toks.length) % 4294967296))
    else []
  let recs := cancelRecs k e (tokenRecs c e st.2 done 0 ++ match fail with
    | some f =>
      let pos := (e.len + r.1.length) % 4294967296
      (if built then statsRec c f.1 pos else []) ++ [⟨0, f.2, 0, r.1.length * 2 ^ 24, pos, 0, 0⟩]
    | none => [])
  { records := sealRecs c q e (!code.isEmpty) g.depth recs, code := code, toks := toks, append := toks
    runLen := r.1.length, accepted := acc, ds := ds.length, built := built, status := lastStatus recs
    stop := stop, efault := ef, residual := match r.1.getLast? with | some it => it.tok.origin = 2 | none => false
    scored := 0, positions := [], gov := g, remote := false }

/-- Records of one prompt-chunk row, and whether it is scored (R242, R245, R248). -/
def chunkRow (c : Ctx) (pq : PReq) (d : RowData) : List Rec × Bool :=
  match c.batch.rows[d.row]?, reqOfRow c d.row with
  | some b, some q =>
    let t := (targetOf pq b (rowPlace q b)).getD 0
    let ok := d.cause = 0 && d.l.isSome
    let l := d.l.getD 0
    (statsRec c d b.pos ++
      [if ok then ⟨1, 0, 0, t, (b.pos + 1) % 4294967296, logpOf (caughtAt d t) l, l.toNat⟩
       else ⟨1, failStatus d, 0, 0, b.pos, 0, 0⟩], ok)
  | _, _ => ([], false)

/-- Position of the first row of a prompt chunk. -/
def chunkStart (q : BReq) : Nat :=
  match q.chunk with
  | some ch => ch.pos0
  | none => 0

/-- The plan of a prompt-chunk commit (R245, R247, R266): one record where the chunk's tokens could not be read (R363). It
writes a position code as every sequential commit of R247 does, and W counts it (R93; DEDUCED, log entry 105). -/
def planChunk (s : Block) (c : Ctx) (q : BReq) (pq : PReq) (rows : List RowOut) : Plan :=
  let e := entryAt s q.entry
  let k := cancelState q e
  let own := rowsOf c q.entry rows
  let lost := chunkLost s c pq own
  let rs : List (List Rec × Bool) :=
    if lost then [([⟨1, 0x0C, 0, 0, chunkStart q, 0, 0⟩], false)] else own.map fun o => chunkRow c pq o.1
  let words := own.flatMap fun o => o.1.words
  let n := match q.chunk with
    | some ch => ch.n
    | none => 0
  let append := if lost then [] else (pq.toks.take n).map (tokenWord s c words)
  let m := if hAutoEn q.host then
      append.foldl (fun m w => autoMove s.stores (c.selEp.getD 1 0) (hAutoTbl q.host) m w.cls) e.mask
    else e.mask
  let code := if k = .no && hPcodeEn q.host then codeOf s c q (axisPos q m e.len) else []
  let recs := cancelRecs k e (rs.flatMap (·.1))
  { records := sealRecs c q e (!code.isEmpty) e.gov.depth recs, code := code, toks := [], append := append, runLen := 0
    accepted := 0, ds := 0, built := false, status := lastStatus recs, stop := false, efault := 0, residual := false
    scored := if k = .no then (rs.filter (·.2)).length else 0, positions := [], gov := e.gov, remote := false }

/-- The plan of a refine iteration (R210 to R212, R246). -/
def planRefine (s : Block) (c : Ctx) (q : BReq) (rows : List RowOut) : Plan :=
  let e := entryAt s q.entry
  let k := cancelState q e
  let rs := rowsOf c q.entry rows
  let h : Nat × Nat × Nat × Nat × List Nat := match e.hist with
    | .refine p t i u done => (p, t, i, u, done)
    | _ => (0, 0, 0, 0, [])
  let store (w : Nat) : Word := tget zeroWord s.stores.prog (c.progEp * 32768 + w)
  let pos (d : RowData) : Nat := match c.batch.rows[d.row]? with
    | some b => b.pos
    | none => 0
  let cand := rs.filterMap fun o => match o.2 with
    | some z => if h.2.2.2.2.contains (pos o.1) then none else some (fsub z.dec.x z.dec.l, pos o.1)
    | none => none
  let chosen := confRank cand (scheduleK (capCompat c) store h.1 h.2.1 h.2.2.1 h.2.2.2.1)
  let fixed := rs.filterMap fun o => match o.2 with
    | some z => if chosen.contains (pos o.1) then some (o.1, z.dec) else none
    | none => none
  let left := h.2.2.2.1 - fixed.length
  let stop := decide (h.2.1 ≤ h.2.2.1 + 1)
  let st := if stop then (if left = 0 then 0x02 else 0x03) else 0
  let word (o : RowOut) : ClassWord := match o.2 with
    | some z => { tokenWord s c o.1.words z.dec.gv with committed := chosen.contains (pos o.1) }
    | none => ⟨0, none, false⟩
  let recs := cancelRecs k e (fixed.flatMap (fun o =>
      statsRec c o.1 (pos o.1) ++
        [⟨0, 0, 32 * b2n o.2.overflow, o.2.gv, pos o.1, logpOf o.2.x o.2.l, o.2.cut⟩]) ++
    [⟨3, st, 0, left, h.2.2.1 + 1, 0, fixed.length⟩])
  { records := sealRecs c q e false 0 recs, code := []
    toks := fixed.map fun o => tokenWord s c o.1.words o.2.gv, append := rs.map word, runLen := fixed.length
    accepted := 0, ds := 0, built := false, status := lastStatus recs, stop := stop, efault := 0, residual := false
    scored := 0, positions := fixed.map fun o => pos o.1, gov := e.gov, remote := false }

/-- The plan of a request. -/
def planOf (s : Block) (c : Ctx) (q : BReq) (pq : PReq) (rows : List RowOut) : Plan :=
  match q.kind with
  | 0 => planGen s c q pq rows
  | 1 => planChunk s c q pq rows
  | _ => planRefine s c q rows

/-! ## DECISION -/

/-- Count the noise draws of the decisions and of the residuals (R194, R229). -/
def countDraws (s : Block) (c : Ctx) (rows : List RowOut) : Block :=
  let d := rows.foldl (fun n o => match o.2 with
    | some z => (n.1 + z.nan, n.2 + z.sat)
    | none => n) (0, 0)
  let r := c.batch.reqs.foldl (fun n q => match preqOf c q.entry with
    | some pq =>
      let k := residCounts s c q (rowsOf c q.entry rows) (draftsOf pq)
      (n.1 + k.1, n.2 + k.2)
    | none => n) d
  noiseNan r.1 (countUp (reg .sel 0x08C) r.2 s)

/-- Every row is decided: the plans stand and the commit begins (R200, R207, R227). -/
def planAll (i : Nat) (rows : List RowOut) (s : Block) : Block :=
  match ctxOf s i with
  | none => s
  | some c =>
    let s := countDraws s c rows
    let decOf (r : Nat) : Option Dec := match rows.find? fun o => o.1.row = r with
      | some o => o.2.map (·.dec)
      | none => none
    setCtx i (some { c with
      phase := .commit
      rows := c.rows.mapIdx fun r p => { p with dec := decOf r }
      reqs := c.reqs.map fun pq => match breqOf c.batch pq.entry with
        | some q => { pq with plan := some (planOf s c q pq rows) }
        | none => pq }) s

/-- The rows of a pass are decided on what its tiles, and in a group its exchange, have brought: more rounds while rows stay
open, then the plans (R200, R204, R205, R324 phase 4). -/
def decideRound (i cycles : Nat) (c : Ctx) (s : Block) : Block :=
  let t := if c.ex.round = 0 then (c, []) else roundTaken s c
  let c := t.1
  let s := setCtx i (some c) s
  let rows := decideAll s c
  let s := if c.ex.round = 0 then rescanRowsUp (overRows rows).length s else rescanCyclesUp i cycles s
  match openRows c t.2 rows with
  | [] => planAll i rows s
  | o => startRound i (o.map (rescanRow c)) s

/-- The Summit decides once the exchange of the pass or of the round is in. -/
def decideSummit (i cycles : Nat) (c : Ctx) (s : Block) : Block :=
  if c.ex.pulling || !c.ex.toPull.isEmpty then s
  else if c.ex.round = 0 && c.ex.parts.isEmpty then pullAll i s
  else decideRound i cycles c s

/-- A peer's round is over: its cycles count once (R206). -/
def peerRound (i cycles : Nat) (c : Ctx) (s : Block) : Block :=
  if c.ex.round = 0 || c.ex.counted then s
  else rescanCyclesUp i cycles (modCtx i (fun c => { c with ex := { c.ex with counted := true } }) s)

/-- DECISION: the last tile of the pass or of a rescan round is behind it. -/
def decision (cycles : Nat) (s : Block) : Block :=
  match workCtx s with
  | none => s
  | some (i, c) =>
    if c.phase ≠ .decide || !mayWork c then s
    else if !c.sharded then decideRound i cycles c s
    else if isSummit s c.bank then decideSummit i cycles c s
    else peerRound i cycles c s

end Sys2Proof.Machine
end

