-- ==== Sys2Proof/Machine/Commit.lean ====
section
/-! DEFINITION. The commit of a step (R85 to R88, R94, R163, R230, R239, R245, R248, R252, R260, R261, R268, R273, R287,
R290, R294, R298, R357, R420, R466): its four points, what it leaves in an entry, and the COMMIT message (R321). -/

namespace Sys2Proof.Machine

/-! ## What a commit leaves in an entry (R163, R211, R230, R231, R233, R252, R260, R268, R273) -/

/-- State of an entry after a commit (R252): a peer takes CANCELLING from the CANCELLED status of its record (R322; DEDUCED, log
entry 132). -/
def stateAfter (q : BReq) (pl : Plan) : EState :=
  if pl.stop then .done
  else if pl.efault ≠ 0 then .fault
  else if q.prev = .cancelling || (pl.remote && pl.status = 0x04) then .cancelling
  else .ready

/-- History slot or pass state after a commit (R163, R211). -/
def histAfter (q : BReq) (pl : Plan) (h : Hist) : Hist :=
  if q.kind = 2 then
    match h with
    | .refine p t i u done =>
      .refine p t (i + 1) (u - pl.positions.length) (pl.positions.foldl (fun l k => insertKey k l) done)
    | h => h
  else histAppendAll h (pl.append.map (·.gv))

/-- Mask state after a commit (R173). -/
def maskAfter (s : Block) (c : Ctx) (q : BReq) (pl : Plan) (m : MaskSt) : MaskSt :=
  if q.kind ≠ 2 && hAutoEn q.host then
    pl.append.foldl (fun m w => autoMove s.stores (c.selEp.getD 1 0) (hAutoTbl q.host) m w.cls) m
  else m

/-- The entry after a commit; `record` says that the commit writes a state record (R273). -/
def entryAfter (s : Block) (c : Ctx) (q : BReq) (pl : Plan) (seq : Nat) (record : Bool) (e : Entry) : Entry :=
  let canc := if pl.remote then pl.status = 0x04 else q.prev = .cancelling
  let n := if q.kind = 0 then pl.toks.length else 0
  { e with
    state := stateAfter q pl
    efault := if pl.stop then e.efault else if pl.efault ≠ 0 then pl.efault else e.efault
    len := (e.len + n) % 4294967296, new := (e.new + n) % 4294967296, seq := seq
    gov := pl.gov
    tail := if q.kind = 0 then lastN 15 (e.tail ++ pl.toks.map (·.gv)) else e.tail
    hist := histAfter q pl e.hist, mask := maskAfter s c q pl e.mask
    discarded := sat32 (e.discarded + discardedOf q pl), rejected := sat32 (e.rejected + b2n pl.residual)
    chunk := if q.kind = 1 then none else e.chunk
    cancelDone := e.cancelDone || canc
    since := if canc || e.cancelDone then e.since + n else e.since
    lastStep := if record then c.num else e.lastStep
    nextSlot := if record then 1 - e.nextSlot else e.nextSlot
    lateSeen := e.lateSeen || (record && q.late)
    autoCancel := e.autoCancel ||
      (record && q.late && hDlPolicy q.host = 1 && !pl.stop && pl.efault = 0 && !canc)
    overtaken := e.overtaken || (pl.stop && hCmdSeq (hostWords s q.entry) ≠ e.ackSeq) }

/-- The entry after a commit, with the interrupt of an entry fault (R258, R297). -/
def applyCommit (c : Ctx) (q : BReq) (pl : Plan) (seq : Nat) (record : Bool) (s : Block) : Block :=
  let s := modEntry q.entry (entryAfter s c q pl seq record) s
  if pl.efault ≠ 0 && !pl.stop then entryFault q.entry pl.efault s else s

/-- SEQ after a commit (R245). -/
def seqAfter (e : Entry) (pl : Plan) : Nat := (e.seq + pl.records.length) % 4294967296

/-! ## Requests of a step -/

/-- Whether a pass is parked or asked to park. -/
def held (c : Ctx) : Bool := c.parked || c.parkReq

/-- Writes of a stopped request that are still under way have no owner any more. -/
def disown (i entry : Nat) (s : Block) : Block :=
  let mine (x : Xfer) : Bool := match x.purpose with
    | .record j e => j = i && e = entry
    | .stateRec j e => j = i && e = entry
    | .counter j e _ _ => j = i && e = entry
    | _ => false
  { s with mem := { s.mem with
    xfers := s.mem.xfers.map fun x => if mine x then { x with purpose := .orphan entry } else x
    done := s.mem.done.filter fun x => !mine x } }

/-- Stop a request at its tenant's fault (R88, R252, R298): CANCEL follows an INTENT (R420). -/
def stopReq (i : Nat) (q : BReq) (pl : Plan) (s : Block) : Block :=
  match ctxOf s i with
  | none => s
  | some c =>
    let n := countsOf q pl
    let s := match preqOf c q.entry with
      | some pq => if pq.intent then strobe (.cancel q.tenant n.1 n.2.1 n.2.2.1 n.2.2.2) s else s
      | none => s
    let s := modCtx i (fun c => { c with partialC := true })
      (modReq i q.entry (fun p => { p with stage := .stopped, intent := false }) s)
    modEntry q.entry (fun e => { e with state := q.prev }) (disown i q.entry s)

/-- Charge of a committed request (R287): its committed tokens, the tokens computed and discarded, and its rows scored. Whether those
that a natural stop discards are charged is left open: R287 says that they are, R237 that they are not (log entry 128). -/
def chargeOf (c : Ctx) (q : BReq) (pl : Plan) : Nat :=
  let n := countsOf q pl
  n.1 + (if q.prev = .cancelling || Config.chargesDropped then n.2.1 else 0) + cdiv n.2.2.1 (2 ^ bits (rc c.regs (tpolReg q.tenant 0)) 19 16)

/-- Whether a transfer of this purpose is outstanding or not yet handed over. -/
def awaiting (p : Purpose) (s : Block) : Bool := (s.mem.xfers ++ s.mem.done).any fun x => x.purpose = p

/-! ## Point 1 (R85, R239) -/

/-- Write the records from ring place `h` on. -/
def writeRecs (i : Nat) (c : Ctx) (q : BReq) (h : Nat) (l : List (List Byte)) (s : Block) : Block :=
  (upto l.length).foldl (fun s k =>
    request true (ringSlot (rc c.regs) q.tenant (hRing q.host) (h + k)) 32 (l.getD k []) 2 (some q.tenant)
      (.tenant q.tenant) (some i) (.record i q.entry) s) s

/-- Write the position code to the slot of NEXT_SLOT (R247). -/
def writeCode (i : Nat) (c : Ctx) (q : BReq) (pl : Plan) (slot : Nat) (s : Block) : Block :=
  if pl.code.isEmpty then s
  else
    request true (hPcodeAddr q.host + slot * codeStride s.stores.freq c.freqEp (hPcodeSet q.host)) pl.code.length pl.code
      2 (some q.tenant) (.tenant q.tenant) (some i) (.record i q.entry) s

/-- REQUEST_COMMIT_START. A pass that is parked, or drains toward it, begins no request's commit; one that has begun goes on to
its end (R81, R85; DEDUCED, log entry 114). -/
def commitStart (entry : Nat) (s : Block) : Block :=
  match committing s entry with
  | none => s
  | some (i, c, q, pq, pl) =>
    if pq.stage ≠ .idle || held c then s
    else
      let e := entryAt s entry
      if cancelState q e = .silent then modReq i entry (fun p => { p with stage := .silent }) s
      else if inFault s q.tenant then stopReq i q pl s
      else
        let r := ringReserve (rc c.regs) q.tenant (hRing q.host) pl.records.length entry s
        match r.1 with
        | none => stopReq i q pl r.2
        | some h =>
          let l := pl.records.mapIdx fun k bs => leBytes 4 ((e.seq + k) % 4294967296) ++ bs
          let s := modReq i entry (fun p => { p with stage := .records, sent := l }) r.2
          writeCode i c q pl e.nextSlot (writeRecs i c q h l s)

/-! ## Point 2 (R85, R273) -/

/-- STATE_RECORD_WRITE: the write is asked for; INTENT goes out as it is put on its port (R420, sendIntent). -/
def stateRecWrite (entry : Nat) (s : Block) : Block :=
  match committing s entry with
  | none => s
  | some (i, c, q, pq, pl) =>
    if pq.stage ≠ .records || awaiting (.record i entry) s then s
    else if inFault s q.tenant then stopReq i q pl s
    else
      let e := entryAt s entry
      let image := entryImage (hostWords s entry) (entryAfter s c q pl (seqAfter e pl) true e)
      let s := modReq i entry (fun p => { p with stage := .stateRec }) s
      request true (hSrecAddr q.host + 512 * e.nextSlot) 512 image 3 (some q.tenant) (.tenant q.tenant) (some i)
        (.stateRec i entry) s

/-! ## Point 3 (R85, R287, R290, R294) -/

/-- REQUEST_COMMITTED: what follows the state record's OKAY and CONFIRM (DESIGN CHOICE, log entry 144). The record landed, so no
fault of the tenant stops it (R86). -/
def committed (entry : Nat) (s : Block) : Block :=
  match committing s entry with
  | none => s
  | some (i, c, q, pq, pl) =>
    if pq.stage ≠ .landed then s
    else
      let seq := seqAfter (entryAt s entry) pl
      let s := modReq i entry (fun p => { p with stage := .committed }) s
      let s := applyCommit c q pl seq true s
      let s := fairCharge c.regs q.tenant q.rows (charge q.tenant (chargeOf c q pl) s)
      request true (counterAddr (rc c.regs) q.tenant (hCounter q.host)) 8 (leBytes 8 seq) 5 (some q.tenant)
        (.tenant q.tenant) (some i) (.counter i entry (hCounter q.host) seq) s

/-! ## Point 4 (R85, R268, R357, R466) -/

/-- Whether a request has nothing left before point 4. -/
def resolved (pq : PReq) : Bool :=
  (pq.stage = .committed && pq.counterOk) || pq.stage = .silent || pq.stage = .stopped

/-- A step of a cancelled request after its CANCELLED commit (R268, R287, R290, R420). -/
def silentCommit (i : Nat) (c : Ctx) (q : BReq) (pq : PReq) (s : Block) : Block :=
  match pq.stage, pq.plan with
  | .silent, some pl =>
    if inFault s q.tenant then stopReq i q pl s
    else
      let s := applyCommit c q pl (entryAt s q.entry).seq false (strobe (.discard q.tenant pl.runLen) s)
      fairCharge c.regs q.tenant q.rows (charge q.tenant pl.runLen s)
  | _, _ => s

/-- A record as the digest reads it (R357): STEP and FLAGS bits [9:6] zero. -/
def digestRec (r : List Byte) : List Byte :=
  let fl := numAt r 10 2
  overlay (overlay r 22 (zeros 6)) 10 (leBytes 2 (fl % 64 + fl / 1024 * 1024))

/-- STEP_DIGEST of the requests that reached point 3 (R357). -/
def digestOf (c : Ctx) : Word :=
  c.reqs.foldl (fun d q =>
    if q.stage = .committed && !q.sent.isEmpty then d + crc32 (q.sent.flatMap digestRec) else d) 0

/-- Write the done counter of a step (R466). -/
def writeDone (i : Nat) (digest : Word) (s : Block) : Block :=
  match ctxOf s i with
  | none => s
  | some c =>
    let s := setCtx i (some { c with phase := .doneWrite })
      { s with step := { s.step with digest := digest, digestStep := c.num } }
    request true (pairAt (rc c.regs) (reg .sch 0x0A8) / 8 * 8) 8 (leBytes 8 c.num) 5 none .system (some i) (.doneCounter i) s

/-- DONE_COUNTER_WRITE. -/
def doneWrite (s : Block) : Block :=
  match (ctxs s).find? fun c => c.2.phase = .commit && !held c.2 && c.2.reqs.all resolved with
  | none => s
  | some (i, c) =>
    let s := c.reqs.foldl (fun s pq => match breqOf c.batch pq.entry with
      | some q => silentCommit i c q pq s
      | none => s) s
    match ctxOf s i with
    | none => s
    | some c => writeDone i (if c.sharded && !isSummit s c.bank then 0 else digestOf c) s

/-- STEP_DONE: the step ends (R94). -/
def stepDone (m : Measure) (s : Block) : Block :=
  match (ctxs s).find? fun c => c.2.phase = .ending && !held c.2 with
  | none => s
  | some (i, c) => endStep i (doneOutcome c) m s

/-! ## The COMMIT message (R321, R322) -/

/-- The record of one request in a COMMIT payload. Of a stopped request it tells the run that was not committed: no token of it
counts, and its entry took no fault (R88, R321; DEDUCED, log entry 137). -/
def commitRec (s : Block) (q : BReq) (pq : PReq) : List Byte :=
  let cap := capWords q
  let seq := (entryAt s q.entry).seq
  let words (l : List ClassWord) := (l.map classWord ++ List.replicate cap 0).take cap |>.flatMap (leBytes 4)
  let out (t code status run a ds fl : Nat) (l : List ClassWord) : List Byte :=
    leBytes 2 q.entry ++ leBytes 2 t ++ leBytes 1 code ++ leBytes 1 status ++ leBytes 1 run ++ leBytes 1 a ++
      leBytes 1 ds ++ leBytes 1 fl ++ zeros 2 ++ leBytes 4 seq ++ words l
  match pq.plan with
  | none => out 0 1 0 0 0 0 0 []
  | some pl =>
    let run := if q.kind = 0 then pl.runLen else 0
    if pq.stage = .stopped then out 0 1 pl.status run pl.accepted pl.ds (b2n pl.stop) []
    else
      let t := match q.kind with
        | 0 => pl.toks.length
        | 1 => pl.append.length
        | _ => pl.positions.length
      out t 0 pl.status run pl.accepted pl.ds (b2n pl.stop + 2 * b2n (pl.efault ≠ 0 && !pl.stop)) pl.append

/-- The COMMIT payload of a pass (R321). -/
def commitPayload (s : Block) (c : Ctx) : List Byte :=
  leBytes 4 c.batch.seq ++ leBytes 2 c.batch.reqs.length ++ zeros 10 ++
    c.batch.reqs.flatMap fun q => match preqOf c q.entry with
      | some pq => commitRec s q pq
      | none => []

/-- The Summit broadcasts COMMIT after its done counter's OKAY and keeps it (R324 phase 6, R328). -/
def sendCommit (c : Ctx) (s : Block) : Block :=
  let pl := commitPayload s c
  let b := bdigOf s c.num
  let m : KeptMsg := { kind := 7, step := c.num, src := shardOf s c.bank, cfge := (bankEpoch s c.bank).toNat
                       bdig := b.1, payload := pl }
  sendOf c 7 0 none false (fun _ => true) pl
    (keepMsg m { b.2 with rdg := { b.2.rdg with lastCommit := c.num } })

/-- One request's record of a COMMIT payload, read at byte `o`. -/
structure CommitRec where
  entry  : Nat
  t      : Nat
  code   : Nat
  status : Nat
  run    : Nat
  acc    : Nat
  ds     : Nat
  stop   : Bool
  fault  : Bool
  seq    : Nat
  words  : List ClassWord
  deriving DecidableEq, Repr

/-- Read a record with `cap` class words. -/
def readCommitRec (bs : List Byte) (o cap : Nat) : CommitRec :=
  { entry := numAt bs o 2, t := numAt bs (o + 2) 2, code := numAt bs (o + 4) 1, status := numAt bs (o + 5) 1
    run := numAt bs (o + 6) 1, acc := numAt bs (o + 7) 1, ds := numAt bs (o + 8) 1
    stop := (numAt bs (o + 9) 1).testBit 0, fault := (numAt bs (o + 9) 1).testBit 1, seq := numAt bs (o + 12) 4
    words := (upto cap).map fun k => classWordOf (numAt bs (o + 16 + 4 * k) 4) }

/-- Whether a COMMIT record tells of a run: the record of a request whose draft block was refused or unreadable has that
status with no draft and no token (R221, R233, R363; log entry 64). -/
def remoteRun (q : BReq) (r : CommitRec) : Bool :=
  q.kind = 0 && r.status ≠ 0x0B && !(r.status = 0x0C && r.run = 0 && r.ds = 0 && decide (0 < q.dstep))

/-- The plan a peer applies for a request (R322): from the record alone, whatever the peer's own reads brought. -/
def peerPlan (s : Block) (c : Ctx) (q : BReq) (r : CommitRec) : Plan :=
  let e := entryAt s q.entry
  let toks := r.words.take r.t
  let built := remoteRun q r
  let places := (upto r.words.length).filter fun p => match r.words[p]? with
    | some w => w.committed
    | none => false
  { records := [], code := [], toks := match q.kind with | 0 => toks | 1 => [] | _ => r.words.filter (·.committed)
    append := if q.kind = 2 then [] else toks, runLen := if q.kind = 2 then places.length else r.run, accepted := r.acc, ds := r.ds, built := built
    status := r.status, stop := r.stop
    efault := if r.fault then (if r.status = 0x0B then efDraft else efMasked) else 0
    residual := q.kind = 0 && decide (r.acc < r.ds) && r.run = r.acc + 1, scored := 0
    positions := if q.kind = 2 then places else []
    gov := if built then govStep (govTab c.regs (hGovTbl q.host)) (hSpecEn q.host) e.gov q.dstep r.ds r.acc else e.gov
    remote := true }

/-- Apply one request's record on a peer (R322): nothing is charged or written there (R309, R310). The record tells whether
this is the CANCELLED commit; the steps after it leave NEXT_SLOT and LAST_STEP (R268; DEDUCED, log entry 132). -/
def peerApply (i : Nat) (c : Ctx) (q : BReq) (r : CommitRec) (s : Block) : Block :=
  match preqOf c q.entry with
  | none => s
  | some _ =>
    if r.code = 0 then
      let pl := peerPlan s c q r
      let record := !(entryAt s q.entry).cancelDone
      modReq i q.entry (fun p => { p with
          stage := if record then .committed else .silent, plan := some pl, counterOk := true })
        (applyCommit c q pl r.seq record s)
    else
      modEntry q.entry (fun e => { e with state := q.prev })
        (modReq i q.entry (fun p => { p with stage := .stopped }) s)

/-- Apply the records of a COMMIT payload from byte `o` on (R321, R322). -/
def peerApplyAll (i : Nat) (c : Ctx) (bs : List Byte) : List BReq → Nat → Block → Block
  | [], _, s => s
  | q :: rest, o, s =>
    peerApplyAll i c bs rest (o + 16 + 4 * capWords q) (peerApply i c q (readCommitRec bs o (capWords q)) s)

/-- A peer applies a complete COMMIT and writes its own done counter (R322). -/
def applyMessage (i : Nat) (bs : List Byte) (s : Block) : Block :=
  match ctxOf s i with
  | none => s
  | some c =>
    let s := peerApplyAll i c bs c.batch.reqs 16 s
    writeDone i 0 { s with rdg := { s.rdg with lastCommit := c.num } }

end Sys2Proof.Machine
end

