-- ==== Sys2Proof/Machine/Ridge.lean ====
section
/-! DEFINITION. The Ridge receiver (R307, R316 to R318, R322 to R337): the judging of a frame, complete messages, what
each kind does, NAKs and the two limits of a wait. -/

namespace Sys2Proof.Machine

/-! ## Judging a frame (R46, R47, R307, R316) -/


/-- Rule 1: the frame cannot be trusted: its parity or framing, more than 136 beats, its length or its CRC. -/
def frameCorrupt (bs : List Byte) (wire : RxWire) : Bool :=
  wire.err || wire.par ≠ bs.map bytePar || 4352 < bs.length || bs.length < 36 || bs.length ≠ 36 + numAt bs 14 2 ||
    numAt bs (bs.length - 4) 4 ≠ (crc32 (bs.take (bs.length - 4))).toNat

/-- Rule 2: the frame is not of this group or not for this block. -/
def frameForeign (s : Block) (bs : List Byte) : Bool :=
  let b := s.cfg.active
  let w := numAt bs 0 4
  let src := nbits w 27 20
  let kind := nbits w 31 28
  let fl := numAt bs 19 1
  shardsOf s b = 1 || numAt bs 28 1 ≠ 1 || nbits w 19 0 ≠ bankGroup s b || shardsOf s b ≤ src || src = shardOf s b ||
    kind = 0 || 9 < kind || (!fl.testBit 0 && numAt bs 18 1 ≠ shardOf s b) || numAt bs 12 2 = 0 ||
    numAt bs 12 2 ≤ numAt bs 10 2 || 8 ≤ fl || numAt bs 29 3 ≠ 0

/-- The frame as the receive buffer holds it. -/
def rxOf (bs : List Byte) : RxFrame :=
  let w := numAt bs 0 4
  { src := nbits w 27 20, kind := nbits w 31 28, step := numAt bs 4 6, round := numAt bs 16 2, fseq := numAt bs 10 2
    fcount := numAt bs 12 2, any := (numAt bs 19 1).testBit 2, bdig := numAt bs 20 4
    payload := slice bs 32 (numAt bs 14 2) }

/-- The context of a step. -/
def ctxOfStep (s : Block) (step : Nat) : Option (Nat × Ctx) := (ctxs s).find? fun c => c.2.num = step

/-- Whether two frames are the same frame (rule 5). -/
def sameFrame (f g : RxFrame) : Bool :=
  f.src = g.src && f.kind = g.kind && f.step = g.step && f.round = g.round && f.fseq = g.fseq

/-- Whether a frame is later than the newest step launched (rule 3); a launch that was skipped counts, so that its PULL
is answered ABSENT (R331, R340; DEDUCED, log entry 103). -/
def frameAhead (s : Block) (f : RxFrame) : Bool :=
  match s.rdg.seen with
  | none => true
  | some n => decide (n < f.step)

/-- A NAK that R328 lets the block answer: for a message it keeps. -/
def nakKept (s : Block) (f : RxFrame) : Bool := f.kind = 4 && (keptMsg s (numAt f.payload 0 1) f.step).isSome

/-- Whether the BDIG of a frame contradicts the BATCH held (rule 7). -/
def batchDiffers (s : Block) (f : RxFrame) : Bool :=
  (f.kind = 3 || f.kind = 6 || f.kind = 7) && match heldBdig s f.step with
    | some d => decide (d ≠ f.bdig)
    | none => false

/-- A group fault about the step of a frame: of its own pass, if the block holds it. -/
def frameFault (code : Nat) (f : RxFrame) (m : Measure) (s : Block) : Block :=
  match ctxOfStep s f.step with
  | some (i, _) => stepFault i code f.src [] m s
  | none => groupFault code f.src f.step s.cfg.active [] s

/-- What an accepted frame answers: a peer's NAKs for the message it expects are unanswered no longer (R330). -/
def nakAnswered (f : RxFrame) (s : Block) : Block :=
  match ctxOfStep s f.step with
  | none => s
  | some (i, c) =>
    if c.sharded && !isSummit s c.bank && f.kind = (if c.ex.batchSeen then 7 else 1) then
      setCtx i (some { c with ex := { c.ex with naks := 0 } }) s
    else s

/-- RIDGE_FRAME_RX: the first rule of R316 that applies decides. A frame that arrives while the receive buffer is full is
lost (R47, R316), and so is an early one for which it has no room (DEDUCED, log entry 61). A corrupt frame counts as corrupt on a
block with SHARDS 1 too (R46, R307; DEDUCED, log entry 164). -/
def frameRx (bs : List Byte) (wire : RxWire) (m : Measure) (s : Block) : Block :=
  if rxFull s then s
  else if frameCorrupt bs wire then countUp (reg .rdg 0x0C0) 1 s
  else if frameEarly s (rxOf bs) && decide (65536 < rxUsed s + bs.length) then s
  else if frameForeign s bs then countUp (reg .rdg 0x0C4) 1 s
  else
    let f := rxOf bs
    if frameAhead s f then countUp (reg .rdg 0x0C4) 1 s
    else if s.rdg.ended.contains f.step && !nakKept s f then countUp (reg .rdg 0x0C8) 1 s
    else if s.rdg.rx.any (sameFrame f) || s.rdg.taken.contains (f.src, f.kind, f.step, f.round) then countUp (reg .rdg 0x0C8) 1 s
    else
      let s := countUp (reg .rdg 0x0BC) 1 s
      let own := ctxOfStep s f.step
      let epochBad := match own with
        | some (_, c) => decide (numAt bs 24 4 ≠ (bankEpoch s c.bank).toNat)
        | none => false
      if epochBad then frameFault 6 f m s
      else if batchDiffers s f then frameFault 4 f m s
      else if own.isSome || f.kind = 2 || f.kind = 4 then nakAnswered f { s with rdg := { s.rdg with rx := s.rdg.rx ++ [f] } }
      else s

/-! ## Messages (R315) -/

/-- The payload of a message every frame of which is held. -/
def wholeMsg (s : Block) (src kind step round : Nat) : Option (List Byte) :=
  let fs := framesOf s src kind step round
  match fs with
  | [] => none
  | f :: _ =>
    let parts := (upto f.fcount).map fun k => fs.find? fun g => g.fseq = k
    if parts.all (·.isSome) then
      some (parts.flatMap fun g => match g with | some g => g.payload | none => [])
    else none

/-- Take the frames of a message out of the buffer. A message of a step still held is remembered, so that its frames
count as duplicates when they come again; a NAK may be repeated (R316, R317, R327). -/
def dropMsg (src kind step round : Nat) (s : Block) : Block :=
  { s with rdg := { s.rdg with
    rx := s.rdg.rx.filter fun f => !(f.src = src && f.kind = kind && f.step = step && f.round = round)
    taken := if kind ≠ 4 && (ctxOfStep s step).isSome then s.rdg.taken ++ [(src, kind, step, round)]
      else s.rdg.taken } }

/-- A sender of a complete message of this kind for a step. -/
def senderOf (s : Block) (kind step round : Nat) : Option (Nat × List Byte) :=
  (s.rdg.rx.filter fun f => f.kind = kind && f.step = step && f.round = round).findSome? fun f =>
    (wholeMsg s f.src kind step round).map fun pl => (f.src, pl)

/-- A sharded pass of which this block is a peer. -/
def peerCtx (s : Block) (p : Ctx → Bool) : Option (Nat × Ctx) :=
  (ctxs s).find? fun c => c.2.sharded && !isSummit s c.2.bank && p c.2

/-! ## BATCH (R309, R318, R324 phase 1) -/

/-- One entry of a BATCH payload against the block's own copy: none where they differ, the depth that its F fields and its
governor give included; where one of the two copies is CANCELLING the stated depth may be 0 on one side alone (R222, R268,
R318; DEDUCED, log entry 132). -/
def batchCand (s : Block) (regs : Table Word) (refine : Bool) (bs : List Byte) (k : Nat) : Option Cand :=
  let o := 16 + 8 * k
  let i := numAt bs o 2
  let d := numAt bs (o + 2) 1
  let kind := numAt bs (o + 3) 1
  let e := entryAt s i
  let h := hostWords s i
  let own := if kind = 0 then depthOf (bits (rc regs (reg .req 0x08C)) 15 0) false h e else 0
  if (e.state = .ready || e.state = .cancelling) && e.reqId = numAt bs (o + 4) 4 && e.refine = refine &&
      rowKind e = kind && (d = own || d = 0) then
    some { i := i, e := e, h := h, kind := kind, d := d, rows := ownRows kind d h e, need := 0, fault := none }
  else none

/-- The batch a peer builds, with the E of its own cost table and corrections, which it charges to no account as it forms no
batch (R309, R404, R405; DEDUCED, log entry 60). -/
def peerBatch (s : Block) (c : Ctx) (bs : List Byte) (l : List Cand) : Batch :=
  let ns := l.foldl (fun ns x => addAt ns (energyClass x) x.rows.length) [0, 0, 0, 0]
  { seq := numAt bs 0 4, refine := numAt bs 4 1 = 1, reqs := l.map breqOfCand, rows := layout l []
    energy := energySum c.regs s.pwr.corr s.pwr.corrCnt ns, eraw := energyRaw c.regs ns
    classN := ns, period := curPeriod s, penEpoch := c.selEp.getD 3 0 }

/-- BATCH_MESSAGE. -/
def batchMessage (m : Measure) (s : Block) : Block :=
  match peerCtx s fun c => !c.ex.batchSeen with
  | none => s
  | some (i, c) => match senderOf s 1 c.num 0 with
    | none => s
    | some (src, bs) =>
      let refine : Bool := numAt bs 4 1 = 1
      let cands := (upto (numAt bs 8 2)).map (batchCand s c.regs refine bs)
      let l := cands.filterMap id
      let s := dropMsg src 1 c.num 0 s
      let b := peerBatch s c bs l
      if !cands.all (·.isSome) || refine ≠ c.refine || b.rows.length ≠ numAt bs 6 2 then stepFault i 4 src [] m s
      else
        let s := keepMsg { kind := 1, step := c.num, src := src, cfge := (bankEpoch s c.bank).toNat
                           bdig := (crc32 bs).toNat, payload := bs } s
        let s := l.foldl (fun s x => modEntry x.i (fun e => { e with state := .inflight }) s) s
        let c := setBatch b false s c
        setCtx i (some { c with ex := { c.ex with batchSeen := true, naks := 0, anyNak := false } })
          { s with step := { s.step with pred := c.pred } }

/-! ## PULL, PART, RESCAN, WINDOW (R203, R305, R323, R324, R331) -/

/-- Answer ABSENT (R331): BDIG and CFGE are free values (log entry 1). -/
def sendAbsent (step dst : Nat) (s : Block) : Block :=
  let g := (Config.freeWord s.fresh).toNat
  let e := (Config.freeWord (s.fresh + 1)).toNat
  sendMsg { bank := s.cfg.active, kind := 9, step := step, round := 0, dst := some dst, retx := false, anyH := false
            bdig := g, cfge := e } [] { s with fresh := s.fresh + 2 }

/-- Whether the pass of a peer can answer a pull of this round. -/
def pullReady (c : Ctx) (round : Nat) : Bool := c.phase = .decide && !c.parkReq && !c.parked && c.ex.round = round

/-- Whether a PULL held must wait: it asks for a round that its pass has not come to (R323). -/
def pullWaits (s : Block) (f : RxFrame) : Bool :=
  match ctxOfStep s f.step with
  | some (_, c) => !isSummit s c.bank && decide (c.ex.round < f.round)
  | none => false

/-- PULL_MESSAGE: the oldest PULL held that can be dealt with. One of a round that its pass has left is dropped: the Summit holds
what it asked for (DEDUCED, log entry 170). -/
def pullMessage (s : Block) : Block :=
  match s.rdg.rx.find? fun f => f.kind = 2 && !pullWaits s f with
  | none => s
  | some f => match ctxOfStep s f.step with
    | none => sendAbsent f.step f.src (dropMsg f.src 2 f.step f.round s)
    | some (i, c) =>
      if isSummit s c.bank then dropMsg f.src 2 f.step f.round s
      else if pullReady c f.round then
        answerPull c f.src false (fun _ => true) (dropMsg f.src 2 f.step f.round s)
      else if f.round = c.ex.round then
        setCtx i (some { c with ex := { c.ex with pulled := true } }) (dropMsg f.src 2 f.step f.round s)
      else dropMsg f.src 2 f.step f.round s

/-- Whether the header of a PART keeps the slice rule of R305: shard 0 first, each slice at the end of the one before,
the last at GROUP_VOCAB. -/
def sliceOk (s : Block) (c : Ctx) (src : Nat) (bs : List Byte) : Bool :=
  let gv := bankGroupVocab s c.bank
  let base := bankVocab s c.bank + ((c.ex.parts.filter fun p => p.1 < src).map fun p => p.2.1).sum
  bankVocBase s c.bank = 0 && numAt bs 0 4 = base && numAt bs 8 4 = gv &&
    (decide (src + 1 < shardsOf s c.bank) || decide (numAt bs 0 4 + numAt bs 4 4 = gv))

/-- The Summit's context that waits for shard `src`; a parked one keeps its exchange suspended (R326). -/
def pullingOf (s : Block) (src : Nat) : Option (Nat × Ctx) :=
  (ctxs s).find? fun c => c.2.sharded && isSummit s c.2.bank && !c.2.parked && c.2.ex.pulling && c.2.ex.toPull.head? = some src

/-- PART_MESSAGE. -/
def partMessage (src : Nat) (m : Measure) (s : Block) : Block :=
  match pullingOf s src with
  | none => s
  | some (i, c) => match wholeMsg s src 3 c.num 0 with
    | none => s
    | some bs =>
      if c.ex.round ≠ 0 then s
      else
        let s := dropMsg src 3 c.num 0 s
        if !sliceOk s c src bs then stepFault i 5 src [] m s
        else
          let rows := readPartRows (decidedIdx c).length (bs.drop 16)
          pullNext i (setCtx i (some { c with ex := { c.ex with
            parts := c.ex.parts ++ [(src, numAt bs 4 4, rows)], toPull := c.ex.toPull.drop 1 } }) s)

/-- RESCAN_MESSAGE: a peer takes the next round and runs its tiles. -/
def rescanMessage (s : Block) : Block :=
  match peerCtx s fun c => c.phase = .decide && !c.parkReq && !c.parked with
  | none => s
  | some (i, c) => match senderOf s 5 c.num (c.ex.round + 1) with
    | none => s
    | some (src, bs) =>
      let rows := readRescan bs
      let s := dropMsg src 5 c.num (c.ex.round + 1) s
      let s := if c.ex.round = 0 then rescanRowsUp rows.length s else s
      beginRound i rows (rescanRoundsUp 1 s)

/-- WINDOW_MESSAGE. -/
def windowMessage (src : Nat) (_m : Measure) (s : Block) : Block :=
  match pullingOf s src with
  | none => s
  | some (i, c) =>
    if c.ex.round = 0 then s
    else match wholeMsg s src 6 c.num c.ex.round with
      | none => s
      | some bs =>
        pullNext i (setCtx i (some { c with ex := { c.ex with
          windows := c.ex.windows ++ [(src, readWindows c.ex.rescan.length bs)], toPull := c.ex.toPull.drop 1 } })
          (dropMsg src 6 c.num c.ex.round s))

/-! ## NAK (R327, R328) -/

/-- Whether a NAK payload asks for frame `k`. -/
def nakWants (bs : List Byte) (k : Nat) : Bool :=
  (upto (min 16 ((bs.length - 4) / 4))).any fun j =>
    decide (numAt bs (4 + 4 * j) 2 ≤ k) && decide (k ≤ numAt bs (6 + 4 * j) 2)

/-- Whether the tiles of a pass, rescan rounds aside, are behind it, so that its PART can be rebuilt (R328). -/
def firstPassOver (c : Ctx) : Bool := !c.parked && !c.parkReq && (c.phase = .decide || c.ex.round ≠ 0)

/-- NAK_MESSAGE: resend what a NAK asks for, as far as the block can. -/
def nakMessage (src : Nat) (s : Block) : Block :=
  match s.rdg.rx.find? fun f => f.kind = 4 && f.src = src with
  | none => s
  | some f =>
    let kind := numAt f.payload 0 1
    let s := dropMsg src 4 f.step f.round s
    let want := nakWants f.payload
    match keptMsg s kind f.step with
    | some k =>
      sendFrames { bank := s.cfg.active, kind := kind, step := f.step, round := 0, dst := some src, retx := true
                   anyH := false, bdig := k.bdig, cfge := k.cfge } want k.payload s
    | none => match ctxOfStep s f.step with
      | some (_, c) =>
        if kind = 3 && firstPassOver c then sendOf c 3 0 (some src) true want (partPayload s c) s
        else if kind = 6 && c.ex.round ≠ 0 && pullReady c f.round then
          sendOf c 6 f.round (some src) true want (windowPayload s c) s
        else s
      | none => s

/-- The ranges of a NAK for what is missing of a message (R327). -/
def nakRanges (fs : List RxFrame) : List Byte :=
  match fs with
  | [] => leBytes 2 0 ++ leBytes 2 0xFFFF
  | f :: _ =>
    let miss := (upto f.fcount).filter fun k => !fs.any fun g => g.fseq = k
    let runs := miss.foldl (fun (l : List (Nat × Nat)) k =>
      match l with
      | (a, b) :: t => if k = b + 1 then (a, k) :: t else (k, k) :: l
      | [] => [(k, k)]) []
    (runs.reverse.take 16).flatMap fun r => leBytes 2 r.1 ++ leBytes 2 r.2

/-- Send a NAK for a message of this kind: to a shard, or to any holder, whose message is then asked for whole
(R315, R327, R330). -/
def sendNak (i : Nat) (kind round : Nat) (dst : Option Nat) (s : Block) : Block :=
  match ctxOf s i with
  | none => s
  | some c =>
    let src := dst.getD (actingSummit s)
    let pl := leBytes 1 kind ++ zeros 3 ++ nakRanges (if dst.isNone then [] else framesOf s src kind c.num round)
    let b := bdigOf s c.num
    let s := countUp (reg .rdg 0x0D4) 1 (sendMsg
      { headOf b.2 c 4 round dst false b.1 with anyH := dst.isNone } pl b.2)
    setCtx i (some { c with ex := { c.ex with naks := c.ex.naks + 1, anyNak := c.ex.anyNak || dst.isNone } }) s

/-- NAKs a receiver sends before it gives up (R329, R330). -/
def retries (c : Ctx) : Nat := bits (rc c.regs (reg .rdg 0x09C)) 3 0

/-- What a pass is waiting to receive: the Summit a pulled message, a peer its BATCH or its COMMIT (R327). A parked pass keeps its
exchange suspended (R326), and so does one that drains toward its parking (DEDUCED, log entry 171). -/
def expecting (s : Block) (c : Ctx) : Option (Nat × Nat × Nat) :=
  if !c.sharded || c.parked || c.parkReq then none
  else if isSummit s c.bank then
    match c.ex.pulling, c.ex.toPull with
    | true, j :: _ => some (j, if c.ex.round = 0 then 3 else 6, c.ex.round)
    | _, _ => none
  else if !c.ex.batchSeen then some (actingSummit s, 1, 0)
  else if beforeCommit c then some (actingSummit s, 7, 0)
  else none

/-- Whether what is expected, or an ABANDON in its place, is held complete: from its source, or for a peer from any that
answered (R327, R330). -/
def heldWhole (s : Block) (c : Ctx) (j kind round : Nat) : Bool :=
  (wholeMsg s j kind c.num round).isSome ||
  (!isSummit s c.bank && ((senderOf s kind c.num round).isSome || (senderOf s 8 c.num 0).isSome))

/-- Whether NAK_WAIT has lapsed for a message: no frame of it has come, or a later FSEQ without an earlier one (R327). -/
def waitLapsed (s : Block) (c : Ctx) (j kind round : Nat) : Bool :=
  let fs := framesOf s j kind c.num round
  fs.isEmpty || fs.any fun f => decide (fs.length ≤ f.fseq)

/-- NAK_WAIT_EXPIRY: a peer's NAK to any holder follows RETRIES unanswered ones and a further wait (R330). -/
def nakExpiry (m : Measure) (s : Block) : Block :=
  match (ctxs s).find? fun c => (expecting s c.2).isSome with
  | none => s
  | some (i, c) => match expecting s c with
    | none => s
    | some (j, kind, round) =>
      if heldWhole s c j kind round then s
      else if c.ex.naks < retries c then (if waitLapsed s c j kind round then sendNak i kind round (some j) s else s)
      else if c.ex.naks = 0 && !waitLapsed s c j kind round then s
      else if isSummit s c.bank then stepFault i 1 j [j] m s
      else if c.ex.anyNak || !waitLapsed s c j kind round then s
      else sendNak i kind round none s

/-- RIDGE_TIMEOUT (R329, R330, R336): nothing where the whole message is held (DEDUCED, log entry 109). -/
def ridgeTimeout (m : Measure) (s : Block) : Block :=
  match (ctxs s).find? fun c => (expecting s c.2).isSome with
  | none => s
  | some (i, c) => match expecting s c with
    | none => s
    | some (j, kind, round) =>
      if heldWhole s c j kind round then s
      else if isSummit s c.bank then stepFault i 1 j [j] m s
      else stepFault i 2 j [j] m { s with rdg := { s.rdg with resync := true } }

/-! ## COMMIT, ABANDON, ABSENT (R322, R329, R334) -/

/-- COMMIT_MESSAGE: for a pass that is parked or drains its exchange is suspended (R326; log entry 171). -/
def commitMessage (s : Block) : Block :=
  match peerCtx s fun c => c.phase = .decide && c.ex.batchSeen && !c.parkReq && !c.parked with
  | none => s
  | some (i, c) => match senderOf s 7 c.num 0 with
    | none => s
    | some (src, bs) =>
      applyMessage i bs (keepMsg { kind := 7, step := c.num, src := src, cfge := (bankEpoch s c.bank).toNat
                                   bdig := (bdigOf s c.num).1, payload := bs } (dropMsg src 7 c.num 0 s))

/-- ABANDON_MESSAGE. -/
def abandonMessage (m : Measure) (s : Block) : Block :=
  match peerCtx s fun c => beforeCommit c && (senderOf s 8 c.num 0).isSome with
  | none => s
  | some (i, c) => match senderOf s 8 c.num 0 with
    | none => s
    | some (src, bs) =>
      let code := numAt bs 0 1
      let shard := numAt bs 1 1
      stepFault i 7 shard (if code = 1 || code = 3 then [shard] else []) m (dropMsg src 8 c.num 0 s)

/-- ABSENT_MESSAGE. -/
def absentMessage (src : Nat) (m : Measure) (s : Block) : Block :=
  match pullingOf s src with
  | none => s
  | some (i, c) => match wholeMsg s src 9 c.num 0 with
    | none => s
    | some _ => stepFault i 3 src [src] m (dropMsg src 9 c.num 0 s)

end Sys2Proof.Machine
end

