-- ==== Sys2Proof/Machine/Meter.lean ====
section
/-! DEFINITION. The sealed meter (R53, R54, R57 to R60, R415 to R433): its strobes, counters, seal-key load, records
and mirror. -/

namespace Sys2Proof.Machine

/-! ## Strobes (R419 to R424) -/

/-- Channel a strobe arrives on: the control and power sender, the Meridian receiver, the clock controller (R419). -/
def channel : Strobe → Nat
  | .count _ _ => 1
  | .clock _ => 2
  | _ => 0

/-- Take the oldest strobe of a channel when it is the one a command names. -/
def takeStrobe (ch : Nat) (p : Strobe → Bool) : List Strobe → Option (Strobe × List Strobe)
  | [] => none
  | e :: l =>
    if channel e = ch then (if p e then some (e, l) else none)
    else (takeStrobe ch p l).map fun r => (r.1, e :: r.2)

/-- Change a tenant's counters. -/
def modTen (n : Nat) (f : MCount → MCount) (i : Island) : Island :=
  { i with tens := tmod (fun _ => MCount.zeroed) i.tens n f }

/-- INTENT: the four counts join the open sums, which have no top (DEDUCED, log entry 74). -/
def openAdd (a b c d : Nat) (m : MCount) : MCount :=
  { m with oCommit := m.oCommit + a, oDiscard := m.oDiscard + b, oScored := m.oScored + c, oDraft := m.oDraft + d }

/-- CANCEL: the counts leave the open sums. -/
def openTake (a b c d : Nat) (m : MCount) : MCount :=
  { m with oCommit := m.oCommit - a, oDiscard := m.oDiscard - b, oScored := m.oScored - c, oDraft := m.oDraft - d }

/-- CONFIRM: the counts move from the open sums to counters 0 to 3 (R417). -/
def openMove (a b c d : Nat) (m : MCount) : MCount :=
  { openTake a b c d m with
    commit := sat64 (m.commit + a), discard := sat64 (m.discard + b), scored := sat64 (m.scored + c)
    draft := sat64 (m.draft + d) }

/-- OPEN_DROP for one tenant (R419, R421). -/
def openCut (m : MCount) : MCount :=
  { m with unresolved := sat64 (m.unresolved + m.oCommit), oCommit := 0, oDiscard := 0, oScored := 0, oDraft := 0 }

/-- OPEN_DROP: every open sum is cut. -/
def dropOpen (i : Island) : Island := (i.tens.map (·.1)).foldl (fun i n => modTen n openCut i) i

/-- One rail's energy in nJ (R423). -/
def railNj (r gain : Nat) : Nat := r * gain / 65536

/-- E of R423. -/
def energyNj (cal : Calib) (r : Rails) : Nat :=
  railNj r.cmp cal.gainCmp + railNj r.base cal.gainBase + railNj r.sram cal.gainSram

/-- Energy to a tenant's accumulator (R418). -/
def addNj (n e : Nat) (i : Island) : Island := modTen n (fun m => { m with nj := sat64 (m.nj + e) }) i

/-- Energy to overhead. -/
def addOvh (e : Nat) (i : Island) : Island := { i with ovhNj := sat64 (i.ovhNj + e) }

/-- STEP_END (R424). -/
def attribute_ (e : Nat) (attr : Bool) (i : Island) : Island :=
  let total := (i.rowTab.map (·.2)).sum
  if !attr || total = 0 then { addOvh e i with rowTab := [] }
  else
    let share (n : Nat) : Nat := e * n / total
    let j := i.rowTab.foldl (fun j r => addNj r.1 (share r.2) j) i
    { addOvh (e - (i.rowTab.map fun r => share r.2).sum) j with
      steps := sat64 (i.steps + 1), rowTab := [] }

/-- Whether a period reaches one more multiple of REC_PERIODS past the previous record (R428). -/
def periodTrigger (i : Island) (period : Nat) : Bool :=
  decide ((i.period - i.prevPeriod) / i.cal.recPeriods < (period - i.prevPeriod) / i.cal.recPeriods)

/-- What the meter does on a strobe (R419); the rails are those a STEP_END or IDLE carries. -/
def strobeAct (r : Rails) (e : Strobe) (i : Island) : Island :=
  match e with
  | .intent t a b c d => modTen t (openAdd a b c d) i
  | .confirm t a b c d => modTen t (openMove a b c d) i
  | .cancel t a b c d => modTen t (openTake a b c d) i
  | .discard t n => modTen t (fun m => { m with discard := sat64 (m.discard + n) }) i
  | .openDrop => { dropOpen i with faultSeen := true }
  | .rstDrop => { dropOpen i with resetSeen := true }
  | .stepRows t n => { i with rowTab := tmod (fun _ => 0) i.rowTab t fun k => k + n }
  | .stepEnd _ attr => attribute_ (energyNj i.cal r) attr i
  | .idle => addOvh (energyNj i.cal r) i
  | .count c p => { i with count := c, period := p, countNew := true
                           triggers := i.triggers + b2n (periodTrigger i p) }
  | .clock hold => if hold then { i with holds := sat32 (i.holds + 1) } else { i with monTrips := sat32 (i.monTrips + 1) }

/-- Whether a strobe feeds a counter: PRESEAL records it before SEALED (R430). -/
def counts (e : Strobe) : Bool :=
  match e with
  | .count _ _ => false
  | .rstDrop => false
  | _ => true

/-- Whether an event carries no CRC: the meter's own sight of rst_n (R421). -/
def isOwn (e : Strobe) : Bool := e = .rstDrop

/-- A strobe reaches the island: dropped when its check fails (R419). PRESEAL notes a strobe taken before SEALED was first
reached (R430; DEDUCED, log entry 77). -/
def strobeIn (r : Rails) (bad : Bool) (e : Strobe) (i : Island) : Island :=
  if !i.on then i
  else if bad && !isOwn e then { i with strobeErr := sat32 (i.strobeErr + 1) }
  else
    let j := strobeAct r e i
    { j with preseal := j.preseal || (counts e && !i.wasSealed) }

/-- The oldest strobe of its channel reaches the meter, when it is of the kind the command names. -/
def receive (ch : Nat) (p : Strobe → Bool) (r : Rails) (bad : Bool) (s : State) : State :=
  match takeStrobe ch p s.blk.strobes with
  | none => s
  | some (e, l) => { s with blk := { s.blk with strobes := l }, isl := strobeIn r bad e s.isl }

/-- A strobe command without rails. -/
def receive0 (ch : Nat) (p : Strobe → Bool) (bad : Bool) (s : State) : State := receive ch p ⟨0, 0, 0⟩ bad s

/-! ## The seal-key load (R54, R425 to R427) -/

/-- The calibration block of 64 bytes, when every check of R425 passes. -/
def calibOf (c : List Byte) : Option Calib :=
  let g (o n : Nat) := numAt c o n
  if g 60 4 = (crc32 (slice c 0 60)).toNat && g 0 2 = 1 && g 2 2 ≠ 0 && g 4 2 ≠ 0 && g 6 2 = 0 && g 8 4 ≠ 0 &&
      g 12 4 ≠ 0 && g 16 4 ≠ 0 && allZero (slice c 28 32) then
    some ⟨g 2 2, g 4 2, g 8 4, g 12 4, g 16 4, g 20 8⟩
  else none

/-- The end of a load. -/
def loadEnd (bs : List Byte) (i : Island) : Island :=
  let bad : Island := { i with sk := .bad, load := [], key := [] }
  if bs.length ≠ 80 then bad
  else match calibOf (bs.drop 16) with
    | some c => { i with sk := .sealed, wasSealed := true, load := [], key := bs.take 16, cal := c, calDigest := sha256 (bs.drop 16) }
    | none => bad

/-- A byte of the load: ignored in SEALED and BAD; no more than 81 bytes are held. -/
def keyByte (b : Byte) (last : Bool) (i : Island) : Island :=
  if !i.on || i.sk = .sealed || i.sk = .bad then i
  else
    let bs := (i.load ++ [b]).take 81
    if last then loadEnd bs i else { i with sk := .loading, load := bs }

/-- The register side's copy of sk_state follows (R416), except where the island is isolated in OFF (R401). -/
def skCopy (s : State) : State :=
  let m := s.blk.mirror
  let sk := if s.blk.pwr.state = .offReady then m.sk else s.isl.sk
  { s with blk := { s.blk with mirror := { m with sk := sk, live := s.isl.sk } } }

/-- SEAL_KEY_BYTE. -/
def sealKey (b : Byte) (last : Bool) (s : State) : State := skCopy { s with isl := keyByte b last s.isl }

/-! ## Power and test mode (R57, R58, R60, R432) -/

/-- GLB.STATUS.METER_ABSENT rises: its interrupt bit is set, unless the register side is in reset (R58, R462). -/
def absentRise (s : Block) : Block := if s.pwr.rstLow then s else irqRaise .glb 1 s

/-- PG_MTR_FALL: the island is lost with every strobe on its way. -/
def mtrFall (s : State) : State :=
  if !s.blk.pwr.pgMtr then s
  else skCopy { s with
    blk := absentRise { s.blk with strobes := [], pwr := { s.blk.pwr with pgMtr := false } }
    isl := { Island.fresh with on := false } }

/-- PG_MTR_RISE: the island starts again (R58, R432). -/
def mtrRise (s : State) : State :=
  if s.blk.pwr.pgMtr then s
  else skCopy { s with
    blk := { s.blk with pwr := { s.blk.pwr with pgMtr := true }, mirror := { s.blk.mirror with valid := false } }
    isl := Island.fresh }

/-- A record whose tag can no longer be formed: its tag is zero (R431, R432; DEDUCED, log entry 102). -/
def tagless (bs : List Byte) : List Byte := bs.take (bs.length - 16) ++ zeros 16

/-- TEST_MODE_RISE: the key is erased, for the tag of a record under way too. -/
def testRise (s : State) : State :=
  skCopy { s with
    blk := { s.blk with testMode := true }
    isl := if s.isl.on then
        { s.isl with sk := .bad, key := [], load := [], calDigest := List.replicate 32 0
                     sending := s.isl.sending.map tagless }
      else s.isl }

/-! ## Records (R428 to R431) -/

/-- Counters 0 to 5 of a tenant, 48 bytes (R417, R418, R429). -/
def countBytes (m : MCount) : List Byte :=
  leBytes 8 m.commit ++ leBytes 8 m.discard ++ leBytes 8 m.scored ++ leBytes 8 m.draft ++ leBytes 8 (m.nj / 1000) ++
    leBytes 8 m.unresolved

/-- A tenant's counters. -/
def tenCount (t : Table MCount) (n : Nat) : MCount := tget (fun _ => MCount.zeroed) t n

/-- Tenants of a record (R429). -/
def recTenants (i : Island) : List Nat :=
  let lo := 64 * (i.seq % 16)
  let keys := (i.tens ++ i.snap).map (·.1)
  let moved := keys.filter fun n => countBytes (tenCount i.tens n) ≠ countBytes (tenCount i.snap n)
  (moved ++ (upto 64).map fun k => lo + k).foldl (fun l n => insertKey n l) []

/-- FLAGS (R430). -/
def recFlags (i : Island) : Nat :=
  b2n (i.sk = .sealed) + 2 * b2n (i.sk = .bad) + 4 * b2n i.preseal + 8 * b2n (!i.countNew) +
    16 * b2n (1 < i.triggers) + 32 * b2n i.resetSeen + 64 * b2n i.faultSeen

/-- The header and sections of a record (R429). -/
def recBody (i : Island) : List Byte :=
  let ts := recTenants i
  leBytes 8 i.seq ++ leBytes 8 i.count ++ leBytes 8 i.period ++ leBytes 8 0x4D54040200000001 ++
    (if i.sk = .sealed then i.calDigest else zeros 32) ++ leBytes 2 ts.length ++ leBytes 2 (recFlags i) ++
    leBytes 4 i.strobeErr ++ leBytes 8 (i.ovhNj / 1000) ++ leBytes 4 i.monTrips ++ leBytes 4 i.holds ++
    leBytes 8 i.steps ++
    ts.flatMap fun n => leBytes 2 n ++ zeros 6 ++ countBytes (tenCount i.tens n)

/-- The whole record with its tag (R431). -/
def recBytes (i : Island) : List Byte :=
  let b := recBody i
  b ++ (if i.sk = .sealed then cmac i.key b else zeros 16)

/-- CAIRN_RECORD: a due record starts; its counters are those of its first byte (R428). What fell due while sk_state was OPEN or LOADING
is kept, so that one record is due at once in SEALED or BAD, coalesced where more fell due (DEDUCED, log entry 169). -/
def cairnStart (i : Island) : Island :=
  if !i.on || i.triggers = 0 || i.sending.isSome || !(i.sk = .sealed || i.sk = .bad) then i
  else
    { i with
      sending := some (recBytes i), seq := (i.seq + 1) % 2 ^ 64, prevPeriod := i.period, countNew := false
      triggers := 0, resetSeen := false, faultSeen := false, snap := i.tens }

/-- REC_MAX_EXPIRY: a record falls due (R428). -/
def recMax (i : Island) : Island := if i.on then { i with triggers := i.triggers + 1 } else i

/-- The mirror takes a complete record (R433). -/
def mirrorTake (bs : List Byte) (m : Mirror) : Mirror :=
  { m with
    valid := true, header := slice bs 0 96
    tens := (upto (numAt bs 64 2)).foldl (fun t k =>
      let o := 96 + 56 * k
      tset (fun _ => []) t (numAt bs o 2) (slice bs (o + 8) 48)) m.tens }

/-- Whether the register side can take what the meter sends: not in OFF (R401), nor in a cold reset, which holds the mirror at
its reset values (R434). -/
def mirrorUp (s : Block) : Bool := s.pwr.state ≠ .offReady && !s.pwr.rstLow

/-- CAIRN_RECORD_END: irq_meter pulses and the mirror, where it can, takes the record (R401, R433, R434). -/
def cairnEnd (s : State) : State :=
  match s.isl.sending with
  | none => s
  | some bs =>
    let b := emit .irqMeter (emit (.cairn bs) s.blk)
    { s with
      blk := if mirrorUp b then { b with mirror := mirrorTake bs b.mirror } else b
      isl := { s.isl with sending := none } }

end Sys2Proof.Machine
end

