-- ==== Sys2Proof/Machine/Read.lean ====
section
/-! DEFINITION. What a read of each register shows (R12, R461 to R464, and the register tables the map cites):
software-written fields as written, and every read-only field from the state it mirrors. -/

namespace Sys2Proof.Machine

/-- A sum of fields, each as value and lowest bit. -/
def fields (l : List (Nat × Nat)) : Word := w32 (l.foldl (fun a f => a + f.1 * 2 ^ f.2) 0)

/-! Codes of enumerated fields. -/

/-- CLK.STATUS.SRC (R413). -/
def srcCode : ClkSrc → Nat
  | .start => 0
  | .dawn => 1
  | .pll => 2
  | .hold => 3

/-- PWR.STATUS.STATE (R414). -/
def pstateCode : PState → Nat
  | .run => 0
  | .throttle => 1
  | .drain => 2
  | .retain => 3
  | .offReady => 4

/-- GATE.STATE (R394). -/
def gateCode : GateState → Nat
  | .gated => 0
  | .running => 1
  | .gatePending => 2
  | .wakePending => 3

/-- sk_state (R54). -/
def skCode : SkState → Nat
  | .open => 0
  | .loading => 1
  | .sealed => 2
  | .bad => 3

/-- TEN.STATUS.STATE (R303). -/
def tstateCode : TState → Nat
  | .dusk => 0
  | .active => 1
  | .draining => 2

/-- SCH.LAST_STEP.OUTCOME. -/
def outcmCode : Outcm → Nat
  | .none => 0
  | .committed => 1
  | .empty => 2
  | .skipped => 3
  | .guardTimeout => 4
  | .groupAbandoned => 5

/-- PAGE_VER: version 4.2, layout 1 and the grade (R7, R461). -/
def pageVer (g : Grade) : Word :=
  match g with
  | .x4 => 0x04020140
  | .x2 => 0x04020120

/-- The GATE register of a page (R394). -/
def gateReg (s : Block) (p : Page) : Word :=
  fields [(b2n (gateOn s p), 0), (gateCode (gateOf s p), 1)]

/-- EPOCH of the active image (R461). -/
def epochReg (s : Block) : Word := if s.cfg.activeValid then bankEpoch s s.cfg.active else 0

/-- Bits of a list of Booleans, from bit `lo` on. -/
def boolBits (l : List Bool) (lo : Nat) : List (Nat × Nat) := l.mapIdx fun i b => (b2n b, lo + i)

/-! ## STATUS beyond the W1C bits -/

/-- RO bits of a page's STATUS register. GLB.METER_ABSENT is live, 1 while pg_mtr is low (DEDUCED, log entry 112), and
SPARE_ACTIVE shows the repair applied to the array, used or not (R118; DEDUCED, log entry 118). -/
def statusRo (s : Block) (p : Page) : Word :=
  match p with
  | .glb => fields [(b2n s.fault, 0), (b2n (s.pwr.src = .hold), 1), (srcCode s.pwr.src, 2), (b2n !s.pwr.pgMtr, 4),
      (b2n s.sramInit, 5), (b2n s.resetting, 6), (b2n s.launched, 7)]
  | .clk => fields [(srcCode s.pwr.src, 0), (b2n s.pwr.pllLock, 2), (b2n s.pwr.dawnOk, 3),
      (b2n s.pwr.dawnByStrap, 4), (b2n s.pwr.refclkOk, 5), (b2n (s.pwr.divCur ≠ divTarget s), 6)]
  | .pwr => fields [(pstateCode s.pwr.state, 0), (b2n s.pwr.dusk, 3), (b2n s.pwr.stop, 4), (b2n s.pwr.isolated, 5),
      (b2n s.pwr.waking, 6)]
  | .cfg => fields [(b2n s.cfg.activeValid, 0), (b2n s.cfg.idleValid, 1), (b2n s.cfg.pending, 2),
      (b2n s.cfg.refused, 3), (b2n s.cfg.wdOpen, 4), (b2n s.cfg.loadBusy, 7), (b2n s.cfg.repairDone, 9),
      (b2n s.cfg.repairRefused, 10)]
  | .mer => fields [(b2n (aligned s), 2)]
  | .sch => fields [(b2n s.running.isSome, 1), (b2n (anyParked s), 2), (b2n s.formed.isSome, 3)]
  | .smp => fields [(b2n s.step.genBusy, 0)]
  | .xlt => fields [(b2n (64 ≤ s.mem.fqueue.length), 1)]
  | .rdg => fields [(b2n s.rdg.halt, 0), (b2n s.rdg.resync, 1),
      (b2n (1 < shardsOf s s.cfg.active && isSummit s s.cfg.active), 2), (b2n (s.rdg.gfault ≠ 0), 3)]
  | .mtr => fields [(skCode s.mirror.sk, 0), (b2n s.pwr.pgMtr, 2), (b2n s.mirror.valid, 3)]
  | .ary n => fields [(b2n (s.arrays.contains n), 0), (b2n (bit (s.repairs.getD n 0) 0), 1),
      (if s.arrays.contains n then (s.arrays.takeWhile fun a => a ≠ n).length else 0, 2)]
  | .ten n => fields [(tstateCode (tenantAt s n).state, 0), (b2n (inFault s n), 2),
      (b2n (tenantAt s n).resetPend, 5), (b2n (bit (rf s (tpolReg n 0)) 0), 6), (b2n (bit (rf s (tpolReg n 0)) 1), 7)]
  | _ => 0

/-- CTRL of a page: its RW fields; write-only fields read zero. -/
def ctrlReg (s : Block) (p : Page) : Word :=
  match p with
  | .clk => w32 (b2n s.pwr.usePll)
  | .glb => wr s (reg .glb 0x008)
  | .sch => wr s (reg .sch 0x008)
  | .xlt => wr s (reg .xlt 0x008)
  | _ => 0

/-- FAULT_CODE and FAULT_ADDR of a page: defined on GLB and the tenant pages (R461). -/
def faultRegs (s : Block) (p : Page) : Nat × Nat :=
  match p with
  | .glb => (s.faultCode, s.faultAddr)
  | .ten n => ((tenantAt s n).faultCode, (tenantAt s n).faultAddr)
  | _ => (0, 0)

/-! ## Page-specific read-only registers -/

/-- CLK (R413). -/
def readClk (s : Block) (off : Nat) : Word :=
  match off with
  | 0x080 => fields [(minDiv s, 0), (divTarget s, 4), (s.pwr.divCur, 8)]
  | 0x084 => w32 s.pwr.dawnCount
  | 0x088 => w32 s.pwr.monCause
  | _ => 0

/-- PWR (R414). -/
def readPwr (s : Block) (off : Nat) : Word :=
  let corr (k : Nat) : Word := fields [(s.pwr.corr.getD k 0, 0), (s.pwr.corrCnt.getD k 0, 16)]
  match off with
  | 0x09C => corr 0
  | 0x0A0 => corr 1
  | 0x0A4 => corr 2
  | 0x0A8 => corr 3
  | 0x0AC => loWord s.pwr.acc
  | 0x0B0 => hiWord s.pwr.acc
  | 0x0B4 => w32 (sat32 s.pwr.lastPred)
  | 0x0B8 => w32 (sat32 s.pwr.lastMeas)
  | 0x0BC => fields [(s.pwr.tempHot, 0), (s.pwr.tempSensor, 8)]
  | _ => 0

/-- A head word of the active bank, zero while none is valid (R96). -/
def headReg (s : Block) (off : Nat) : Word := if s.cfg.activeValid then bankWord s s.cfg.active off else 0

/-- CFG (R96, R457). -/
def readCfg (s : Block) (off : Nat) : Word :=
  match off with
  | 0x080 => headReg s 0x40
  | 0x084 => headReg s 0x44
  | 0x088 => headReg s 0x48
  | 0x08C => headReg s 0x4C
  | 0x090 => headReg s 0x50
  | 0x094 => if s.cfg.idleValid then bankEpoch s (1 - s.cfg.active) else 0
  | 0x098 => fields [(s.cfg.refuseCode, 0), (s.cfg.refuseDetail, 8)]
  | 0x0A0 => w32 s.cfg.wdLeft
  | 0x0B4 => w32 s.cfg.loadDone
  | _ => 0

/-- MER (R63, register map). -/
def readMer (s : Block) (off : Nat) : Word :=
  match off with
  | 0x08C => w32 s.launchQ.length
  | 0x098 => loWord (curCount s)
  | 0x09C => hiWord (curCount s)
  | _ => 0

/-- SCH (R95, R358, register map). -/
def readSch (s : Block) (off : Nat) : Word :=
  let t := s.step
  match off with
  | 0x094 => w32 t.pred
  | 0x098 => w32 t.cycles
  | 0x09C => BitVec.ofInt 32 t.stall
  | 0x0B0 => loWord t.doneNum
  | 0x0B4 => hiWord t.doneNum
  | 0x0B8 => fields [(outcmCode t.outcome, 0), (t.reason, 4), (b2n t.partialC, 7), (b2n t.late, 8),
      (b2n t.overrun, 9), (b2n t.unaligned, 10)]
  | 0x0BC => loWord t.num
  | 0x0C0 => hiWord t.num
  | 0x0C4 => t.digest
  | 0x0C8 => loWord t.digestStep
  | 0x0CC => hiWord t.digestStep
  | _ => 0

/-- Free pages of the pool (R277): none from a reset, which clears the pool, to the first boundary after it, where the pages of
POOL_PAGES become its own again (R434; DEDUCED, log entry 172). -/
def freeCount (s : Block) : Nat := if s.launched then bits (rf s (reg .req 0x080)) 20 0 - s.used.length else 0

/-- REQ (R277). -/
def readReq (s : Block) (off : Nat) : Word :=
  match off with
  | 0x088 => w32 (freeCount s)
  | 0x0B8 => w32 s.batchSeq
  | _ => 0

/-- SFU.TBL_STATE (R147). -/
def sfuTblState (s : Block) : Word :=
  let e := s.epochs
  fields ([(e.active.getD 4 0, 0), (e.active.getD 5 0, 1), (e.sfuWord, 16)] ++
    boolBits [e.pending.getD 4 false, e.pending.getD 5 false, e.refused.getD 4 false, e.refused.getD 5 false] 2)

/-- SEL.TBL_STATE (R181). -/
def selTblState (s : Block) : Word :=
  let e := s.epochs
  fields ((e.active.take 4).mapIdx (fun i a => (a, i)) ++ boolBits (e.pending.take 4) 4 ++
    boolBits (e.refused.take 4) 8 ++ [(e.selIndex, 16)])

/-- SMP (R216). -/
def readSmp (s : Block) (off : Nat) : Word :=
  if 0x0B4 ≤ off && off < 0x0C4 then s.step.genOut.getD ((off - 0x0B4) / 4) 0
  else if off = 0x0C4 then s.step.genGumbel else 0

/-- XLT (R373). -/
def readXlt (s : Block) (off : Nat) : Word :=
  let r := s.mem.fqueue.head?
  match off with
  | 0x084 => fields [((wr s (reg .xlt 0x084)).toNat, 0), (b2n s.mem.invalBusy, 12)]
  | 0x088 => w32 s.mem.fqueue.length
  | 0x08C => match r with
    | some r => fields [(r.tenant, 0), (r.port, 10), (r.kind, 12), (b2n r.write, 15), (r.cause, 16)]
    | none => 0
  | 0x090 => match r with
    | some r => loWord r.addr
    | none => 0
  | 0x094 => match r with
    | some r => hiWord r.addr
    | none => 0
  | _ => 0

/-- RDG (R341); the geometry mirrors show the active bank. -/
def readRdg (s : Block) (off : Nat) : Word :=
  match off with
  | 0x080 => headReg s 0x80
  | 0x084 => headReg s 0x84
  | 0x088 => headReg s 0x88
  | 0x08C => headReg s 0x8C
  | 0x0A4 => fields [(s.rdg.gfault, 0), (s.rdg.gshard, 8)]
  | 0x0A8 => loWord s.rdg.gfstep
  | 0x0AC => hiWord s.rdg.gfstep
  | 0x0B0 => loWord s.rdg.lastCommit
  | 0x0B4 => hiWord s.rdg.lastCommit
  | _ => 0

/-- The counter MTR.TEN_SEL selects (R433). -/
def mtrVal (s : Block) : Nat :=
  let w := wr s (reg .mtr 0x0CC)
  if 5 < bits w 12 10 then 0
  else numAt (tget (fun _ => []) s.mirror.tens (bits w 9 0)) (8 * bits w 12 10) 8

/-- MTR (R433): header fields of the latest record mirrored; DESIGN reads its constant before any record. -/
def readMtr (s : Block) (off : Nat) : Word :=
  let h := s.mirror.header
  let at4 (o : Nat) : Word := w32 (numAt h o 4)
  match off with
  | 0x080 => at4 0
  | 0x084 => at4 4
  | 0x088 => at4 8
  | 0x08C => at4 12
  | 0x090 => w32 (numAt h 66 2)
  | 0x094 => 0x00000001
  | 0x098 => 0x4D540402
  | 0x0BC => at4 72
  | 0x0C0 => at4 76
  | 0x0C4 => at4 68
  | 0x0C8 => fields [(numAt h 80 2, 0), (numAt h 84 2, 16)]
  | 0x0D0 => loWord (mtrVal s)
  | 0x0D4 => hiWord (mtrVal s)
  | off => if 0x09C ≤ off && off < 0x0BC then at4 (32 + (off - 0x09C)) else 0

/-- Entries of a tenant that are not FREE, resident and spilled (R303). -/
def tenEntries (s : Block) (n : Nat) : Nat :=
  ((usedEntries s).filter fun i => (entryAt s i).tenant = n).length +
  (s.dir.filter fun d => d.2.tenant = n && d.2.state ≠ .free).length

/-- Whether the counter that a tenant page selects lies in the range in force (R296). -/
def ctrInRange (s : Block) (n : Nat) : Bool :=
  let k := bits (wr s (tenReg n 0x094)) 15 0
  let first := bits (rf s (tpolReg n 0x10)) 15 0
  let num := bits (rf s (tpolReg n 0x14)) 16 0
  decide (first ≤ k) && decide (k < first + num)

/-- The selected completion counter, zero outside the range in force (R296). -/
def ctrVal (s : Block) (n : Nat) : Nat :=
  if ctrInRange s n then tget (fun _ => 0) s.counters (bits (wr s (tenReg n 0x094)) 15 0) else 0

/-- Tenant pages (R238, R303). -/
def readTen (s : Block) (n off : Nat) : Word :=
  let t := tenantAt s n
  match off with
  | 0x080 => BitVec.ofInt 32 t.balance
  | 0x084 => loWord t.fair
  | 0x088 => hiWord t.fair
  | 0x08C => w32 t.faultMore
  | 0x090 => w32 t.entryFaults
  | 0x098 => loWord (ctrVal s n)
  | 0x09C => hiWord (ctrVal s n)
  | 0x0A0 => w32 (tenEntries s n)
  | off =>
    if 0x180 ≤ off && off < 0x200 && off % 0x20 = 0x0C then w32 (countOf (tenReg n off) s) else 0

/-- Page-specific registers that are not software-written (register map). -/
def readOwn (s : Block) (p : Page) (off : Nat) : Word :=
  match p with
  | .glb => if 0x080 ≤ off && off < 0x100 && off % 4 = 0 then tenPend ((off - 0x080) / 4) s else 0
  | .clk => readClk s off
  | .pwr => readPwr s off
  | .cfg => readCfg s off
  | .mer => readMer s off
  | .sch => readSch s off
  | .req => readReq s off
  | .sfu => if off = 0x094 then sfuTblState s else 0
  | .sel => if off = 0x084 then selTblState s else 0
  | .smp => readSmp s off
  | .xlt => readXlt s off
  | .rdg => readRdg s off
  | .mtr => readMtr s off
  | .dbg => if off = 0x090 then w32 s.reg.errAddr else if off = 0x094 then w32 s.reg.errCause else 0
  | .ary n => if n = 0 && off = 0x090 then w32 s.nArr else 0
  | .mem n => if off = 0x088 then fields [(outReads s n, 0), (outWrites s n, 7)] else 0
  | .ten n => readTen s n off
  | _ => 0

/-- Software-written registers that show more than was written. -/
def mixed (p : Page) (off : Nat) : Bool :=
  match p with
  | .clk => off = 0x080
  | .xlt => off = 0x084
  | _ => false

/-- A page register as it stands now, hold registers aside (R12, R13, R461). -/
def liveReg (s : Block) (p : Page) (off : Nat) : Word :=
  let a := pageBase p + off
  match off with
  | 0x000 => w32 (pageType p + pageInst p * 2 ^ 8)
  | 0x004 => pageVer s.grade
  | 0x008 => ctrlReg s p
  | 0x00C => flagWord p s ||| statusRo s p
  | 0x010 => 0
  | 0x018 => irqStat p s
  | 0x01C => w32 (faultRegs s p).1
  | 0x020 => loWord (faultRegs s p).2
  | 0x024 => hiWord (faultRegs s p).2
  | 0x028 => gateReg s p
  | 0x030 => epochReg s
  | _ =>
    if isCounter p off then w32 (countOf a s)
    else if (rwDef a).isSome && !mixed p off then wr s a
    else readOwn s p off

/-- Whether a page reads zero but for PAGE_VER: ARY2 and ARY3 of an X2 (R464). -/
def absentAry (s : Block) (p : Page) : Bool :=
  match p with
  | .ary n => s.grade = .x2 && decide (2 ≤ n)
  | _ => false

/-- Whether a register is CTR_VAL_HI of a tenant whose selected counter lies outside the range in force (R296). -/
def ctrShut (s : Block) (p : Page) (off : Nat) : Bool :=
  match p with
  | .ten n => off = 0x09C && !ctrInRange s n
  | _ => false

/-- What a read of a page register returns (R463, R464): a latched one its hold; CTR_VAL_HI zero, like CTR_VAL_LO, while the
index lies outside the range (R296; DEDUCED, log entry 129). -/
def readReg (s : Block) (p : Page) (off : Nat) : Word :=
  if absentAry s p then (if off = 0x004 then pageVer s.grade else 0)
  else if ctrShut s p off then 0
  else if isLatched (pageBase p + off) then tget zeroWord s.reg.holds (pageBase p + off)
  else liveReg s p off

/-- A read of `a` copies the registers it latches into their holds (R463). -/
def latchRead (p : Page) (off : Nat) (s : Block) : Block :=
  if absentAry s p then s
  else
    let h := (latched (pageBase p + off)).foldl
      (fun h b => tset zeroWord h b (liveReg s p (b - pageBase p))) s.reg.holds
    { s with reg := { s.reg with holds := h } }

end Sys2Proof.Machine
end

