-- ==== Sys2Proof/Machine/Reset.lean ====
section
/-! DEFINITION. The resets of R434: cold (rst_n and the base-tier rails, R56, R58, R383, R436, R437), block soft
(R435, R450), and the requests for a page or tenant reset. -/

namespace Sys2Proof.Machine

/-! ## When a command finds the block able to act -/

/-- Events inside the block, which need a control clock (R385, R389). -/
def clocked (f : Block → Block) (s : Block) : Block := if ctrlClock s then f s else s

/-- Arrivals at a port that runs on its own clock: taken whenever the block is out of reset (R41, R46, R47, R380). -/
def offReset (f : Block → Block) (s : Block) : Block := if s.pwr.rstLow then s else f s

/-- A command of the Ridge, which takes nothing and sends nothing while it is gated (R395). -/
def rdgOn (f : Block → Block) (s : Block) : Block :=
  if gateOf s .rdg = .gated || gateOf s .rdg = .wakePending then s else f s

/-! ## Cold reset -/

/-- Every register field and all SRAM at their reset values; the pins, a Dawn judgement already made or under way,
the island's sk_state and the log of port outputs stay (R57, R383, R434). The meter sees rst_n (R421). -/
def coldReset (s : Block) : Block :=
  let w := s.pwr
  let m := { Mirror.cold with sk := s.mirror.live, live := s.mirror.live }
  let b := Block.cold s.grade m
  { b with
    testMode := s.testMode, mcTick := s.mcTick, out := s.out, fresh := s.fresh
    strobes := if w.pgMtr then s.strobes ++ [.rstDrop] else []
    pwr := { b.pwr with
      pinLow := w.pinLow, pgBase := w.pgBase, pgSram := w.pgSram, pgIo := w.pgIo, pgCmp := w.pgCmp, pgMtr := w.pgMtr
      strap := w.strap, dawnOk := w.dawnOk, dawnByStrap := w.dawnByStrap, judging := w.judging, refSeen := w.refSeen
      windows := w.windows, prevWin := w.prevWin } }

/-- rst_n falls (R56). -/
def rstAssert (s : Block) : Block := coldReset (setPwr (fun w => { w with pinLow := true }) s)

/-- The base-tier rails of R58 all count high. -/
def railsUp (s : Block) : Bool := s.pwr.pgBase && s.pwr.pgSram && s.pwr.pgIo

/-- The cold reset ends: the judgement of Dawn begins unless it has begun already, and a judgement already made
starts control and register logic on Dawn (R383 to R385). -/
def leaveReset (s : Block) : Block :=
  if s.pwr.pinLow || !railsUp s then s
  else setPwr (fun w =>
    let w := { w with rstLow := false, src := if w.dawnOk then .dawn else .start }
    if w.judging then w else { w with judging := true, refSeen := false, windows := 0, prevWin := 0 }) s

/-- rst_n deasserts, with the strap of R52 as it stands. -/
def rstRelease (strap : Nat) (s : Block) : Block :=
  if s.pwr.pinLow then leaveReset (setPwr (fun w => { w with pinLow := false, strap := BitVec.ofNat 4 strap }) s) else s

/-- Set a rail's power-good. -/
def setRail (r : BaseRail) (b : Bool) (w : PwrSide) : PwrSide :=
  match r with
  | .base => { w with pgBase := b }
  | .sram => { w with pgSram := b }
  | .io => { w with pgIo := b }

/-- A base-tier rail falls: the effect of rst_n, and with pg_base the Dawn oscillator stops and its judgement is
lost (R58, R383). -/
def railFall (r : BaseRail) (s : Block) : Block :=
  let s := coldReset (setPwr (setRail r false) s)
  if r = .base then
    setPwr (fun w => { w with dawnOk := false, dawnByStrap := false, judging := false, refSeen := false
                              windows := 0, prevWin := 0 }) s
  else s

/-- A base-tier rail counts high again (R58). -/
def railRise (r : BaseRail) (s : Block) : Block :=
  let up := match r with
    | .base => s.pwr.pgBase
    | .sram => s.pwr.pgSram
    | .io => s.pwr.pgIo
  if up then s else leaveReset (setPwr (setRail r true) s)

/-! ## Block soft reset -/

/-- Whether a commit is open toward the meter: INTENT sent, not yet confirmed (R420, R435). -/
def anyOpen (s : Block) : Bool := (ctxs s).any fun c => c.2.reqs.any fun q => q.intent

/-- Whether an address is that of a ring's TAIL. -/
def isTail (a : Nat) : Bool :=
  decide (0x100000 ≤ a) && decide (a < 0x500000) && decide (0x180 ≤ a % 0x1000) && decide (a % 0x1000 < 0x200) &&
    a % 0x20 = 0x10

/-- The register side after a block soft reset: RW fields other than ring TAIL, gates and pending page resets
stay (R434). -/
def regSoft (r : RegSide) : RegSide :=
  { r with
    written := r.written.filter fun e => !isTail e.1
    flags := [], irq := [], counts := [], holds := [], errAddr := 0, errCause := 0, stale := false }

/-- A tenant after a block soft reset: state, balance and pending grants stay (R434). -/
def tenantSoft (t : Tenant) : Tenant :=
  { t with
    fair := 0, faultCode := 0, faultAddr := 0, faultMore := 0, clearPend := false, sinceCode := 0, sinceAddr := 0
    sinceN := 0, entryFaults := 0, resetPend := false }

/-- Tenants after a block soft reset, in canonical form. -/
def tenantsSoft (t : Table Tenant) : Table Tenant :=
  t.foldl (fun acc e => tset (fun _ => Tenant.cold) acc e.1 (tenantSoft e.2)) []

/-- Learned corrections start again (R407). -/
def corrFresh (w : PwrSide) : PwrSide :=
  { w with corr := [0x1000, 0x1000, 0x1000, 0x1000], corrAcc := [0, 0, 0, 0], corrCnt := [0, 0, 0, 0] }

/-- The configuration side: a load ends, and a switch pending or under check is withdrawn (R435). -/
def cfgSoft (c : CfgSide) : CfgSide :=
  { c with
    loadBusy := false, loadSel := false, loadSrc := 0, loadDst := 0, loadLen := 0, loadDone := 0, checking := false, rolling := false
    pending := false, pendIsRollback := false, pendIsAuto := false, wdRollback := false }

/-- What a block soft reset clears (R434). A HALT_CLEAR that waits for its boundary stays, and so do the checks of SFU and SEL
tables under way (DEDUCED, log entries 154 and 149). -/
def softClear (s : Block) : Block :=
  { s with
    reg := regSoft s.reg, cfg := cfgSoft s.cfg, mem := { MemSide.cold with nextId := s.mem.nextId }
    rdg := { s.rdg with rx := [], taken := [], kept := [], newest := none, seen := none, ended := [], irqPeriod := none }
    pwr := { corrFresh s.pwr with monCause := 0, acc := 0, accPeriod := 0, lastPred := 0, lastMeas := 0 }
    step := StepRegs.cold, fault := false, faultCode := 0, faultAddr := 0, resetting := true, launched := false
    launchQ := [], host := [], dirHost := [], entries := [], dir := [], used := [], counters := [], batchSeq := 0
    leftPages := 0, tenants := tenantsSoft s.tenants, forming := none, formed := none, ctx0 := none, ctx1 := none
    running := none }

/-- Stores of the mask region come back zero, epoch 0 active (R176, R435). -/
def wipeMask (s : Block) : Block :=
  { s with
    stores := { s.stores with bitmaps := [], automata := [], bias := [], penalty := [] }
    epochs := { s.epochs with
      active := s.epochs.active.mapIdx fun i e => if i < 4 then 0 else e
      pending := s.epochs.pending.mapIdx fun i b => decide (4 ≤ i) && b
      selChecks := [] } }

/-- Policy records, in canonical form, back at their reset values. -/
def dropPolicy (t : Table Word) : Table Word := tclear t 0xFC0000 0xFD0000

/-- Everything of R29's "Other" comes back as after a cold reset (R435). -/
def wipeOther (s : Block) : Block :=
  { s with
    stores := { s.stores with bank0 := [], bank1 := [], prog := [], freq := [], repair := [] }
    cfg := { s.cfg with activeValid := false, idleValid := false }
    tenants := [], lastRefill := none
    reg := { s.reg with written := dropPolicy s.reg.written, inForce := dropPolicy s.reg.inForce }
    epochs := { s.epochs with
      active := s.epochs.active.mapIdx fun i e => if 4 ≤ i then 0 else e
      pending := s.epochs.pending.mapIdx fun i b => decide (i < 4) && b
      progCheck := false, freqCheck := false } }

/-- The region of R29 that holds a byte offset is zeroed, regions in the order of its table (R435). The stores of
the first 112 MiB are cleared by every block soft reset. -/
def wipeRegion (addr : Nat) (s : Block) : Block :=
  if addr < 0x7000000 then s
  else if addr < 0x7800000 then wipeMask s
  else if addr < 0x8000000 then wipeOther s
  else s

/-- The block soft reset (R434, R435); after a fault in an open watchdog window it acts as a ROLLBACK write as well
(R450), and one that comes before that rollback's boundary does not withdraw it. -/
def blockReset (s : Block) : Block :=
  let t := softClear (if anyOpen s then strobe .openDrop s else s)
  let t := if s.fault && s.faultCode = 0x04 then wipeRegion s.faultAddr t else t
  if s.cfg.wdRollback || (s.cfg.pending && s.cfg.pendIsAuto) then
    if t.cfg.idleValid then
      { t with cfg := { t.cfg with pending := true, pendIsRollback := true, pendIsAuto := true, refused := false } }
    else bankRefuse 0x0A none t
  else t

/-- RESET_COMPLETE (R435). -/
def resetComplete (s : Block) : Block := { s with resetting := false }

/-! ## Requests for a page or tenant reset -/

/-- SOFT_RESET of a page (R301, R433, R434): a repeated write withdraws the writes that came after the first. -/
def pageResetReq (p : Page) (s : Block) : Block :=
  match p with
  | .glb => blockReset s
  | .mtr => s
  | .ten n => modTenant n (fun t => { t with resetPend := true }) s
  | p =>
    let b := pageBase p
    let rest := s.reg.resetPend.filter fun x => x ≠ b
    { s with reg := { s.reg with
      resetPend := rest ++ [b]
      sinceReset := s.reg.sinceReset.filter fun a => decide (a < b) || decide (b + 0x1000 ≤ a) } }

end Sys2Proof.Machine
end

