-- ==== Sys2Proof/Machine/Port.lean ====
section
/-! DEFINITION. The register port (R13, R14, R35 to R39, R437, R438, R459 to R474): where a request lands, how it is
answered, and the effect of an accepted write to each register. -/

namespace Sys2Proof.Machine

/-! ## Where a request lands -/

/-- How a request is answered: from a page register, from a table window, HOLD, or ERROR with its cause (R467). -/
inductive Target where
  | reg (p : Page) (off : Nat)
  | win (w : Win) (off : Nat)
  | hold
  | err (cause : Nat)
  deriving DecidableEq, Repr

/-- The front end answers alone: no clock judged usable, CLOCK_HOLD, or a block soft reset (R39, R385, R435). -/
def frontOnly (s : Block) : Bool := s.pwr.src = .start || s.pwr.src = .hold || s.resetting

/-- A page access (R37, R396). An array page that the grade lacks answers every one okay, bad parity included (R6, R464;
DEDUCED, log entry 89). -/
def targetPage (p : Page) (off : Nat) (badPar : Bool) (s : Block) : Target :=
  if absentAry s p then .reg p off
  else if gatedOut s p && off ≠ 0x000 && off ≠ 0x004 && off ≠ 0x028 then .err 3
  else if badPar then .err 4
  else .reg p off

/-- A table-window access (R37, R438, R469, R474). While the SRAM is cleared an aligned access is held before its gate and
its parity are judged (DEDUCED, log entry 15). -/
def targetWin (w : Win) (off : Nat) (badPar : Bool) (s : Block) : Target :=
  if s.sramInit then .hold
  else if (match winOwner w with | some p => gatedOut s p | none => false) then .err 3
  else if badPar then .err 4
  else if !s.cfg.repairDone && w ≠ .repair then .err 5
  else .win w off

/-- Where a request lands (R459); `badPar` tells that it is a write whose parity fails. While the front end answers alone a
misaligned request is held like any other (R39; DEDUCED, log entry 122). -/
def target (addr : Nat) (write badPar : Bool) (s : Block) : Target :=
  if frontOnly s then (if !write && addr = 0x00C then .reg .glb 0x00C else .hold)
  else if addr % 4 ≠ 0 then .err 1
  else if addr < 0x500000 then
    match pageAt (addr / 0x1000) with
    | some p => targetPage p (addr % 0x1000) badPar s
    | none => .err 2
  else match winAt (apertureSel s) addr with
    | some w => targetWin w.1 w.2 badPar s
    | none => .err 2

/-- DBG records an ERROR response while it has its clock (R467). -/
def dbgRecord (addr : Nat) (write : Bool) (cause : Nat) (s : Block) : Block :=
  if gatedOut s .dbg then s
  else countUp (reg .dbg 0x098) 1
    { s with reg := { s.reg with errAddr := addr + b2n write * 2 ^ 24, errCause := cause } }

/-- The response of a request (R35). -/
def respond (code : Nat) (data : Word) (s : Block) : Block := emit (rspOut code data) s

/-! ## Reads -/

/-- A read accepted by the register port (R463). -/
def portRead (addr : Nat) (s : Block) : Block :=
  if s.pwr.rstLow then s
  else match target addr false false s with
    | .hold => respond 2 0 s
    | .err c => respond 1 0 (dbgRecord addr false c s)
    | .reg p off => respond 0 (readReg s p off) (latchRead p off s)
    | .win w off => respond 0 (winRead w off s) s

/-! ## Writes to page registers -/

/-- An RW-step register was written: a batch formed in advance may be stale (R75), and the write stands after a
page soft reset asked for before it (R434). -/
def noteStep (p : Page) (a : Nat) (s : Block) : Block :=
  if !isStep a then s
  else
    let s := match p with
      | .sch => markStale s
      | .req => markStale s
      | .ten _ => markStale s
      | _ => s
    if s.reg.resetPend.contains (pageBase p) then
      { s with reg := { s.reg with sinceReset := s.reg.sinceReset ++ [a] } }
    else s

/-- A write to an RW or RW-step register (R12, R17). -/
def plainWrite (p : Page) (off : Nat) (w : Word) (s : Block) : Block :=
  let a := pageBase p + off
  let r := rwWrite a w s
  if r.2 then
    let t := badParam p r.1
    if wr t a = wr s a then t else noteStep p a t
  else noteStep p a r.1

/-- FAULT_CLEAR of a tenant (R299): faults raised from now on are kept for the boundary. -/
def faultClearReq (n : Nat) (s : Block) : Block :=
  modTenant n (fun t => { t with clearPend := true, sinceCode := 0, sinceAddr := 0, sinceN := 0 }) s

/-- CFG.CTRL (R457): the bits set act in order, from bit 0 (DESIGN CHOICE, log entry 104). -/
def cfgCtrl (w : Word) (s : Block) : Block :=
  let s := if bit w 0 then bankSwitchReq s else s
  let s := if bit w 1 then bankRollbackReq s else s
  let s := if bit w 2 then bankConfirm s else s
  let s := if bit w 3 then loadGo s else s
  if bit w 4 then repairApply s else s

/-- CTRL of each page. -/
def ctrlWrite (p : Page) (w : Word) (s : Block) : Block :=
  match p with
  | .glb =>
    let s := plainWrite .glb 0x008 w s
    if bit w 1 then fatal 0x18 0 s else s
  | .clk => if bit w 0 then usePll s else setPwr (fun p => { p with usePll := false }) s
  | .pwr => if bit w 0 then setPwr corrFresh s else s
  | .cfg => cfgCtrl w s
  | .sch => plainWrite .sch 0x008 w s
  | .xlt => plainWrite .xlt 0x008 w s
  | .rdg => if bit w 0 then { s with rdg := { s.rdg with clearPend := true } } else s
  | .ten n => if bit w 0 then faultClearReq n s else s
  | _ => s

/-- PWR.STATE_REQ (R398, R414): a request not taken leaves the field and the state unchanged. -/
def stateReq (w : Word) (s : Block) : Block :=
  let a := reg .pwr 0x080
  match bits w 2 0 with
  | 0 => reqRun (setWr a 0 s)
  | 2 => reqDrain (setWr a 2 s)
  | 3 => let r := reqRetain s
         if r.2 then setWr a 3 r.1 else r.1
  | 4 => let r := reqOff s
         if r.2 then setWr a 4 r.1 else r.1
  | _ => badParam .pwr s

/-- PWR.COSTc: an accepted write restarts the class (R407). -/
def costWrite (c : Nat) (w : Word) (s : Block) : Block :=
  let t := plainWrite .pwr (0x08C + 4 * c) w s
  if w = 0 then t
  else setPwr (fun p => { p with
    corr := setNth p.corr c 0x1000, corrAcc := setNth p.corrAcc c 0, corrCnt := setNth p.corrCnt c 0 }) t

/-- PWR registers. -/
def pwrWrite (off : Nat) (w : Word) (s : Block) : Block :=
  match off with
  | 0x080 => stateReq w s
  | 0x08C => costWrite 0 w s
  | 0x090 => costWrite 1 w s
  | 0x094 => costWrite 2 w s
  | 0x098 => costWrite 3 w s
  | off => plainWrite .pwr off w s

/-- REQ.SPILL_N: refused while a directory entry it would drop is not FREE (R277, R471). -/
def spillNWrite (w : Word) (s : Block) : Block :=
  if s.dir.any fun d => d.2.state ≠ .free && decide (bits w 14 0 ≤ d.1) then badParam .req s
  else plainWrite .req 0x0B4 w s

/-- XLT.RESUME (R371, R373). -/
def resumeWrite (w : Word) (s : Block) : Block :=
  if !bit w 11 then s else if bit w 10 then xltAbort (bits w 9 0) s else xltRetry (bits w 9 0) s

/-- XLT.INVAL (R373). -/
def invalWrite (w : Word) (s : Block) : Block :=
  let s := plainWrite .xlt 0x084 w s
  if !bit w 11 then s
  else
    let s := dropXlt (fun n => bit w 10 || n = bits w 9 0) s
    { s with mem := { s.mem with invalBusy := true } }

/-- XLT registers. -/
def xltWrite (off : Nat) (w : Word) (s : Block) : Block :=
  match off with
  | 0x080 => resumeWrite w s
  | 0x084 => invalWrite w s
  | 0x098 => if bit w 0 then fqPop s else s
  | off => plainWrite .xlt off w s

/-- TEN[n].CTR_SEL: an index outside the range in force takes effect and is flagged (R296). -/
def ctrSelWrite (n : Nat) (w : Word) (s : Block) : Block :=
  let k := bits w 15 0
  let first := bits (rf s (tpolReg n 0x10)) 15 0
  let t := plainWrite (.ten n) 0x094 w s
  if first ≤ k && k < first + bits (rf s (tpolReg n 0x14)) 16 0 then t else badParam (.ten n) t

/-- SFU.TBL_CTRL (R145, R147). -/
def sfuTblWrite (w : Word) (s : Block) : Block :=
  let s := if bit w 0 then sfuRequest 4 s else s
  if bit w 1 then sfuRequest 5 s else s

/-- Page-specific registers. -/
def ownWrite (p : Page) (off : Nat) (w : Word) (s : Block) : Block :=
  match p with
  | .clk => if off = 0x080 then autoState (plainWrite .clk off w s) else plainWrite .clk off w s
  | .pwr => pwrWrite off w s
  | .mer => if off = 0x088 then (if bit w 0 then launchPushed w s else s) else plainWrite .mer off w s
  | .req => if off = 0x0B4 then spillNWrite w s else plainWrite .req off w s
  | .sfu => if off = 0x090 then sfuTblWrite w s else plainWrite .sfu off w s
  | .sel => if off = 0x080 then selRequest [bit w 0, bit w 1, bit w 2, bit w 3] s else plainWrite .sel off w s
  | .smp => if off = 0x0B0 then (if bit w 0 then genGo s else s) else plainWrite .smp off w s
  | .xlt => xltWrite off w s
  | .ten n => if off = 0x094 then ctrSelWrite n w s else plainWrite (.ten n) off w s
  | p => plainWrite p off w s

/-- The effect of an accepted write to a page register; a read-only or reserved offset takes none (R12, R13). -/
def regWrite (p : Page) (off : Nat) (w : Word) (s : Block) : Block :=
  if absentAry s p then s
  else match off with
    | 0x008 => ctrlWrite p w s
    | 0x00C => flagClear p w s
    | 0x014 => plainWrite p 0x014 w s
    | 0x018 => irqClear p w s
    | 0x028 => if bit w 0 then wakeRequest p s else gateRequest p s
    | 0x02C => if bit w 0 then pageResetReq p s else s
    | off => ownWrite p off w s

/-- A write accepted by the register port (R35 to R37). -/
def portWrite (addr : Nat) (data : Word) (par : BitVec 4) (s : Block) : Block :=
  if s.pwr.rstLow then s
  else match target addr true (!wparOk data par) s with
    | .hold => respond 2 0 s
    | .err c => respond 1 0 (dbgRecord addr true c s)
    | .reg p off => respond 0 0 (regWrite p off data s)
    | .win w off => respond 0 0 (winWrite w off data s)

end Sys2Proof.Machine
end

