-- ==== Sys2Proof/Machine/Deliver.lean ====
section
/-! DEFINITION. Handing a finished memory transfer to the path that asked for it (R71, R99, R106, R117, R126, R221,
R265, R266, R294, R363, R443, R466), and letting the ports settle after a command. -/

namespace Sys2Proof.Machine

/-! ## Draft blocks and prompt-chunk tokens (R220, R221, R266) -/

/-- A probability of a draft list: positive, finite, at most 1.0 (R221). -/
def draftQ (w : Nat) : Bool := decide (0 < w) && decide (w ≤ 0x3F800000)

/-- Whether global indices rise strictly. -/
def ascending : List Nat → Bool
  | a :: b :: l => decide (a < b) && ascending (b :: l)
  | _ => true

/-- Slot at byte `o` of a draft block, or none where it fails its checks. -/
def draftSlot (bs : List Byte) (o : Nat) : Option Draft :=
  let n := numAt bs (o + 4) 1
  let l := (upto n).map fun e => (numAt bs (o + 8 + 8 * e) 4, numAt bs (o + 12 + 8 * e) 4)
  let t := numAt bs o 4
  if n = 0 || 64 < n || !ascending (l.map (·.1)) || l.any (fun x => decide (4194304 ≤ x.1) || !draftQ x.2) ||
      !l.any (fun x => x.1 = t) then none
  else some ⟨t, l.map fun x => (x.1, w32 x.2)⟩

/-- Slots of a draft block, or none where the block is refused (R221). -/
def draftBlock (bs : List Byte) (len dstep : Nat) : Option (List Draft) :=
  let ds := numAt bs 4 1
  if numAt bs 0 4 ≠ len || dstep < ds then none
  else
    let l := (upto ds).map fun j => draftSlot bs (64 + 576 * j)
    if l.all (·.isSome) then some (l.filterMap id) else none

/-- The draft block of an entry is in. One that is refused, or that could not be read, removes the request's rows as R102 does
(R221, R363). -/
def draftIn (i e : Nat) (x : Xfer) (s : Block) : Block :=
  match ctxOf s i with
  | none => s
  | some c => match breqOf c.batch e with
    | none => s
    | some q =>
      let c := modPReq e (fun p => { p with dataIn := true }) c
      let put (c : Ctx) (s : Block) : Block := advanceChunk i (setCtx i (some c) s)
      let s' := countUp (reg .sfu 0x088) (rowsLeft e c) s
      if x.failed then put (removeReq 0x0C e c) s'
      else match draftBlock (xferBytes x) (entryAt s e).len q.dstep with
        | none => put (removeReq 0x0B e c) s'
        | some l => put (modPReq e (fun p => { p with drafts := some l }) c) s

/-- The prompt-chunk tokens of an entry are in. A token out of range, or a read that failed, removes the chunk's rows as R102
does (R266, R363). -/
def chunkData (i e : Nat) (x : Xfer) (s : Block) : Block :=
  let bs := xferBytes x
  let toks := (upto (bs.length / 4)).map fun k => numAt bs (4 * k) 4
  let good := !x.failed && toks.all fun t => decide (t < 4194304)
  let bad := match ctxOf s i with
    | some c => if good then 0 else rowsLeft e c
    | none => 0
  let s := countUp (reg .sfu 0x088) bad s
  advanceChunk i (modCtx i (fun c =>
    let c := modPReq e (fun p => { p with dataIn := true, toks := if good then toks else [] }) c
    if x.failed then removeReq 0x0C e c else if good then c else removeReq 0x08 e c) s)

/-! ## Rows, weights, adapters -/

/-- The guard object is in (R71): not passed where the read failed. -/
def guardIn (i : Nat) (x : Xfer) (s : Block) : Block :=
  match ctxOf s i with
  | none => s
  | some c =>
    if c.phase = .guard && !c.parkReq && !x.failed && decide (c.num ≤ leNat (xferBytes x)) then guardPassed i s else s

/-- A hidden row is in, or could not be read and is removed (R99, R363). -/
def rowIn (i r : Nat) (x : Xfer) (s : Block) : Block :=
  let n := match ctxOf s i with
    | some c => if x.failed then rowLeft r c else 0
    | none => 0
  advanceRepair i (modCtx i (fun c =>
    if x.failed then removeRow 0x0C r c else modRow r (fun p => { p with fetched := some (xferBytes x) }) c)
    (countUp (reg .sfu 0x088) n s))

/-- A panel is in: it takes its place and is no longer absent (R108, R117). -/
def panelIn (i t g cb q u : Nat) (x : Xfer) (s : Block) : Block :=
  match ctxOf s i with
  | none => s
  | some c =>
    let o := (q * (bankH s c.bank / 64) + u) * panelBytes (ctxWgt s c)
    advanceChunk i (setCtx i (some { c with weights := c.weights.map fun w =>
      if w.t = t && w.g = g && w.cb = cb then
        { w with bytes := overlay w.bytes o (xferBytes x), absent := w.absent.filter fun a => a ≠ (q, u) }
      else w }) s)

/-- An adapter's weights are in, or its read failed: the rows that name it are removed and counted (R102, R126, R128). -/
def adapterIn (i t slot : Nat) (x : Xfer) (s : Block) : Block :=
  match ctxOf s i with
  | none => s
  | some c =>
    if x.failed then
      let n := adapterRows s t slot c
      let c := removeAdapter s t slot { c with adapters := c.adapters.filter (fun a => !(a.1 = t && a.2.1 = slot))
                                               adpAsked := false, adpAbsent := [] }
      advanceRepair i (setCtx i (some c) (countUp (reg .sfu 0x088) n s))
    else setCtx i (some { c with adapters := c.adapters.map fun a =>
      if a.1 = t && a.2.1 = slot then (a.1, a.2.1, some (xferBytes x)) else a }) s

/-- An adapter's panel is in again, or its refetches are used up (R117, R128). -/
def adapterPanelIn (i t slot n : Nat) (x : Xfer) (s : Block) : Block :=
  if x.failed then adapterIn i t slot x s
  else modCtx i (fun c =>
    let o := n * panelBytes (adpFmt (adpDesc c.regs t slot).fmt)
    { c with
      adpAbsent := c.adpAbsent.filter fun k => k ≠ n
      adapters := c.adapters.map fun a =>
        if a.1 = t && a.2.1 = slot then (a.1, a.2.1, a.2.2.map fun w => overlay w o (xferBytes x)) else a }) s

/-! ## Commit traffic (R85, R88, R294, R466) -/

/-- A record that failed stops its request (R88). -/
def commitWrite (i e : Nat) (x : Xfer) (s : Block) : Block :=
  if !x.failed then s
  else match ctxOf s i with
    | none => s
    | some c => match breqOf c.batch e, preqOf c e with
      | some q, some pq => match pq.plan with
        | some pl => if pq.stage = .records then stopReq i q pl s else s
        | none => s
      | _, _ => s

/-- A state record has ended: its OKAY sends CONFIRM, and the commit can no longer be stopped (R86, R420); a failed one, or
one whose tenant is in fault by then, stops its request (R88, R421). -/
def stateRecIn (i e : Nat) (x : Xfer) (s : Block) : Block :=
  match ctxOf s i with
  | none => s
  | some c => match breqOf c.batch e, preqOf c e with
    | some q, some pq => match pq.plan with
      | some pl =>
        if pq.stage ≠ .stateRec then s
        else if x.failed || inFault s q.tenant then stopReq i q pl s
        else
          let n := countsOf q pl
          strobe (.confirm q.tenant n.1 n.2.1 n.2.2.1 n.2.2.2)
            (modReq i e (fun p => { p with stage := .landed, intent := false }) s)
      | none => s
    | _, _ => s

/-- A completion-counter write has ended: the on-block counter takes the value on OKAY (R294). -/
def counterIn (i e k v : Nat) (x : Xfer) (s : Block) : Block :=
  let s := modReq i e (fun p => { p with counterOk := true }) s
  if x.failed then modCtx i (fun c => { c with partialC := true }) s else counterSet k v s

/-- The done counter has its OKAY (R466): the step waits for its end, and a Summit broadcasts COMMIT (R324). -/
def doneIn (i : Nat) (s : Block) : Block :=
  match ctxOf s i with
  | none => s
  | some c =>
    let s := setCtx i (some { c with phase := .ending }) { s with step := { s.step with doneNum := c.num } }
    if c.sharded && isSummit s c.bank && !c.batch.rows.isEmpty then sendCommit c s else s

/-! ## Delivery -/

/-- Transfers that stay until a command of their own takes them: entry transfers and a load under way. -/
def stays (x : Xfer) : Bool :=
  match x.purpose with
  | .hist _ => true
  | .importRec _ => true
  | .exportImg _ => true
  | .spill _ _ => true
  | .fill _ _ => true
  | .load => !x.failed
  | _ => false

/-- Whether a finished transfer waits for others: a row list's OKAY, on which the header follows, for the page numbers of the
same formation (R262, R265). -/
def awaits (s : Block) (x : Xfer) : Bool :=
  match x.purpose with
  | .descRows seq => pagesOut s seq
  | _ => false

/-- Hand a finished transfer over. -/
def handOver (x : Xfer) (s : Block) : Block :=
  match x.purpose with
  | .guard i => guardIn i x s
  | .row i r => rowIn i r x s
  | .panel i t g cb q u => panelIn i t g cb q u x s
  | .adapter i t slot => adapterIn i t slot x s
  | .adapterPanel i t slot n => adapterPanelIn i t slot n x s
  | .draft i e => draftIn i e x s
  | .chunk i e => chunkData i e x s
  | .record i e => commitWrite i e x s
  | .stateRec i e => stateRecIn i e x s
  | .counter i e k v => counterIn i e k v x s
  | .descRows seq => writeHead seq s
  | .doneCounter i => doneIn i s
  | .spillEnd d st => spillEndDone x d st s
  | .outRecord t k v => outRecordDone x t k v s
  | .outCounter k v => if x.failed then s else counterSet k v s
  | .load => loadError s
  | .walk => walkDone x s
  | .pageList _ => s
  | .orphan _ => s
  | .descHead _ => s
  | .descLaunch => s
  | .hist _ => s
  | .importRec _ => s
  | .exportImg _ => s
  | .spill _ _ => s
  | .fill _ _ => s

/-- Issue what the ports can take and hand over what has ended, until nothing more moves. -/
def settleLoop : Nat → Block → Block
  | 0, s => s
  | fuel + 1, s =>
    let s := pump s
    match s.mem.done.find? fun x => !stays x && !awaits s x with
    | none => s
    | some x =>
      settleLoop fuel (handOver x { s with mem := { s.mem with done := s.mem.done.filter fun y => y.id ≠ x.id } })

/-- The memory side after a command, while the block has its clock (R389), and DUSK where nothing is left to wait for
(R399). -/
def settle (s : Block) : Block := if ctrlClock s then duskCheck (settleLoop 65536 s) else s

end Sys2Proof.Machine
end

