-- ==== Sys2Proof/Machine/CmdPort.lean ====
section
/-! DEFINITION. The commands of the register port: each write row at its own address. -/

namespace Sys2Proof.Machine

/-- A write command: the write on the register port, then whatever the ports can issue. -/
def portCommand (addr : Nat) (data : Word) (par : BitVec 4) (s : State) : Host.Outcome State Fault Refusal :=
  mission (fun b => settle (portWrite addr data par b)) s

/-- REGISTER_WRITE (R36, R61, R461). -/
def execRegisterWrite (addr : BitVec 24) (data : Word) (par : BitVec 4) (s : State) : Host.Outcome State Fault Refusal :=
  portCommand addr.toNat data par s

/-- LATCHING_READ (R463). -/
def execLatchingRead (addr : BitVec 24) (s : State) : Host.Outcome State Fault Refusal := mission (portRead addr.toNat) s

/-- TABLE_WINDOW_WRITE (R459, R469 to R474). -/
def execTableWindowWrite (addr : BitVec 24) (data : Word) (par : BitVec 4) (s : State) : Host.Outcome State Fault Refusal :=
  portCommand addr.toNat data par s

/-- LAUNCH_PUSH: a write of MER.LAUNCH_PUSH (R63, R64). -/
def execLaunchPush (data : Word) (par : BitVec 4) (s : State) : Host.Outcome State Fault Refusal :=
  portCommand 0x004088 data par s

/-- GRANT: a write of TPOL[n].GRANT (R280). -/
def execGrant (tenant : BitVec 10) (data : Word) (par : BitVec 4) (s : State) : Host.Outcome State Fault Refusal :=
  portCommand (0xFC000C + tenant.toNat * 0x40) data par s

/-- FAULT_CLEAR: a write of TEN[n].CTRL (R299). -/
def execFaultClear (tenant : BitVec 10) (data : Word) (par : BitVec 4) (s : State) : Host.Outcome State Fault Refusal :=
  portCommand (0x100008 + tenant.toNat * 0x1000) data par s

/-- TENANT_RESET: a write of TEN[n].SOFT_RESET (R301). -/
def execTenantReset (tenant : BitVec 10) (data : Word) (par : BitVec 4) (s : State) : Host.Outcome State Fault Refusal :=
  portCommand (0x10002C + tenant.toNat * 0x1000) data par s

/-- PROG_SWITCH: a write of SFU.TBL_CTRL (R145). -/
def execProgSwitch (data : Word) (par : BitVec 4) (s : State) : Host.Outcome State Fault Refusal :=
  portCommand 0x007090 data par s

/-- FREQ_SWITCH: a write of SFU.TBL_CTRL (R145). -/
def execFreqSwitch (data : Word) (par : BitVec 4) (s : State) : Host.Outcome State Fault Refusal :=
  portCommand 0x007090 data par s

/-- MASK_SWITCH: a write of SEL.TBL_CTRL (R179). -/
def execMaskSwitch (data : Word) (par : BitVec 4) (s : State) : Host.Outcome State Fault Refusal :=
  portCommand 0x008080 data par s

/-- AUTO_SWITCH: a write of SEL.TBL_CTRL (R179). -/
def execAutoSwitch (data : Word) (par : BitVec 4) (s : State) : Host.Outcome State Fault Refusal :=
  portCommand 0x008080 data par s

/-- BIAS_SWITCH: a write of SEL.TBL_CTRL (R179). -/
def execBiasSwitch (data : Word) (par : BitVec 4) (s : State) : Host.Outcome State Fault Refusal :=
  portCommand 0x008080 data par s

/-- PEN_SWITCH: a write of SEL.TBL_CTRL (R179). -/
def execPenSwitch (data : Word) (par : BitVec 4) (s : State) : Host.Outcome State Fault Refusal :=
  portCommand 0x008080 data par s

/-- GEN_GO: a write of SMP.GEN_GO (R216). -/
def execGenGo (data : Word) (par : BitVec 4) (s : State) : Host.Outcome State Fault Refusal :=
  portCommand 0x0090B0 data par s

/-- SWITCH: a write of CFG.CTRL (R448). -/
def execSwitch (data : Word) (par : BitVec 4) (s : State) : Host.Outcome State Fault Refusal :=
  portCommand 0x003008 data par s

/-- ROLLBACK: a write of CFG.CTRL (R449). -/
def execRollback (data : Word) (par : BitVec 4) (s : State) : Host.Outcome State Fault Refusal :=
  portCommand 0x003008 data par s

/-- CONFIRM: a write of CFG.CTRL (R450). -/
def execConfirm (data : Word) (par : BitVec 4) (s : State) : Host.Outcome State Fault Refusal :=
  portCommand 0x003008 data par s

/-- LOAD_GO: a write of CFG.CTRL (R442). -/
def execLoadGo (data : Word) (par : BitVec 4) (s : State) : Host.Outcome State Fault Refusal :=
  portCommand 0x003008 data par s

/-- REPAIR_APPLY: a write of CFG.CTRL (R453). -/
def execRepairApply (data : Word) (par : BitVec 4) (s : State) : Host.Outcome State Fault Refusal :=
  portCommand 0x003008 data par s

/-- CORR_CLEAR: a write of PWR.CTRL (R407). -/
def execCorrClear (data : Word) (par : BitVec 4) (s : State) : Host.Outcome State Fault Refusal :=
  portCommand 0x002008 data par s

/-- STATE_REQ_RUN: a write of PWR.STATE_REQ (R398 to R401). -/
def execStateReqRun (data : Word) (par : BitVec 4) (s : State) : Host.Outcome State Fault Refusal :=
  portCommand 0x002080 data par s

/-- STATE_REQ_DRAIN: a write of PWR.STATE_REQ (R399). -/
def execStateReqDrain (data : Word) (par : BitVec 4) (s : State) : Host.Outcome State Fault Refusal :=
  portCommand 0x002080 data par s

/-- STATE_REQ_RETAIN: a write of PWR.STATE_REQ (R400). -/
def execStateReqRetain (data : Word) (par : BitVec 4) (s : State) : Host.Outcome State Fault Refusal :=
  portCommand 0x002080 data par s

/-- STATE_REQ_OFF: a write of PWR.STATE_REQ (R401). -/
def execStateReqOff (data : Word) (par : BitVec 4) (s : State) : Host.Outcome State Fault Refusal :=
  portCommand 0x002080 data par s

/-- FORCE_FAULT: a write of GLB.CTRL (R456). -/
def execForceFault (data : Word) (par : BitVec 4) (s : State) : Host.Outcome State Fault Refusal :=
  portCommand 0x000008 data par s

/-- BLOCK_SOFT_RESET: a write of GLB.SOFT_RESET (R434, R435). -/
def execBlockSoftReset (data : Word) (par : BitVec 4) (s : State) : Host.Outcome State Fault Refusal :=
  portCommand 0x00002C data par s

/-- PAGE_SOFT_RESET: a write of a page's SOFT_RESET (R434). -/
def execPageSoftReset (page : BitVec 12) (data : Word) (par : BitVec 4) (s : State) : Host.Outcome State Fault Refusal :=
  portCommand (page.toNat * 0x1000 + 0x02C) data par s

/-- GATE_REQUEST: a write of 0 to GATE.ON (R395, R396). -/
def execGateRequest (page : BitVec 12) (data : Word) (par : BitVec 4) (s : State) : Host.Outcome State Fault Refusal :=
  portCommand (page.toNat * 0x1000 + 0x028) data par s

/-- WAKE_REQUEST: a write of 1 to GATE.ON (R396). -/
def execWakeRequest (page : BitVec 12) (data : Word) (par : BitVec 4) (s : State) : Host.Outcome State Fault Refusal :=
  portCommand (page.toNat * 0x1000 + 0x028) data par s

/-- USE_PLL_SET: a write of CLK.CTRL (R386, R392). -/
def execUsePllSet (data : Word) (par : BitVec 4) (s : State) : Host.Outcome State Fault Refusal :=
  portCommand 0x001008 data par s

/-- HALT_CLEAR: a write of RDG.CTRL (R340). -/
def execHaltClear (data : Word) (par : BitVec 4) (s : State) : Host.Outcome State Fault Refusal :=
  portCommand 0x00C008 data par s

/-- XLT_RETRY: a write of XLT.RESUME (R371). -/
def execXltRetry (data : Word) (par : BitVec 4) (s : State) : Host.Outcome State Fault Refusal :=
  portCommand 0x00B080 data par s

/-- XLT_ABORT: a write of XLT.RESUME (R371). -/
def execXltAbort (data : Word) (par : BitVec 4) (s : State) : Host.Outcome State Fault Refusal :=
  portCommand 0x00B080 data par s

/-- FQ_POP: a write of XLT.FQ_POP (R372). -/
def execFqPop (data : Word) (par : BitVec 4) (s : State) : Host.Outcome State Fault Refusal :=
  portCommand 0x00B098 data par s

/-- INVAL_GO: a write of XLT.INVAL (R373). -/
def execInvalGo (data : Word) (par : BitVec 4) (s : State) : Host.Outcome State Fault Refusal :=
  portCommand 0x00B084 data par s

end Sys2Proof.Machine
end

