-- ==== Sys2Proof/Machine/CmdStep.lean ====
section
/-! DEFINITION. The commands of a step: count words, launch, guard, memory responses, pass and commit. -/

namespace Sys2Proof.Machine

/-- An event inside the block: it needs a control clock, and the ports settle after it. -/
def blockEvent (f : Block → Block) (s : State) : Host.Outcome State Fault Refusal := mission (fun b => settle (clocked f b)) s

/-- An arrival at a port that runs on its own clock. -/
def portEvent (f : Block → Block) (s : State) : Host.Outcome State Fault Refusal := mission (fun b => settle (offReset f b)) s

/-- MERIDIAN_WORD (R48, R49, R65). -/
def execMeridianWord (bits : BitVec 72) (s : State) : Host.Outcome State Fault Refusal := mission (meridianWord bits) s

/-- MC_SYNC_RISE_IN_WORD (R49). -/
def execMcSyncRiseInWord (s : State) : Host.Outcome State Fault Refusal := mission syncInWord s

/-- LAUNCH (R61 to R70). -/
def execLaunch (remaining : Nat) (m : Measure) (s : State) : Host.Outcome State Fault Refusal :=
  mission (fun b => settle (launchStep remaining m b)) s

/-- BATCH_FORM (R74 to R77). -/
def execBatchForm (s : State) : Host.Outcome State Fault Refusal :=
  blockEvent (batchForm) s

/-- GUARD_CHECK_BEGIN (R70, R71). -/
def execGuardCheckBegin (s : State) : Host.Outcome State Fault Refusal :=
  blockEvent (guardBegin) s

/-- GUARD_POLL (R72). -/
def execGuardPoll (s : State) : Host.Outcome State Fault Refusal :=
  blockEvent (guardAgain) s

/-- GUARD_TIMEOUT (R72). -/
def execGuardTimeout (m : Measure) (s : State) : Host.Outcome State Fault Refusal :=
  blockEvent (guardLapse m) s

/-- MEM_READ_RESPONSE (R41, R43, R374). -/
def execMemReadResponse (port tag : Nat) (beats : List Beat) (last : Bool) (err : BitVec 2) (s : State) : Host.Outcome State Fault Refusal :=
  portEvent (readResponse port tag beats last err) s

/-- MEM_WRITE_RESPONSE (R42, R43). -/
def execMemWriteResponse (port tag : Nat) (err : BitVec 2) (s : State) : Host.Outcome State Fault Refusal :=
  portEvent (writeResponse port tag err) s

/-- MEM_TIMEOUT (R43). -/
def execMemTimeout (port tag : Nat) (write : Bool) (s : State) : Host.Outcome State Fault Refusal :=
  portEvent (memTimeout port tag write) s

/-- ROW_NORMALISED (R99 to R105). -/
def execRowNormalised (row : Nat) (s : State) : Host.Outcome State Fault Refusal :=
  blockEvent (rowNormal row) s

/-- ADAPTER_RUN (R125, R126). -/
def execAdapterRun (s : State) : Host.Outcome State Fault Refusal :=
  blockEvent adapterRun s

/-- TILE_COMPLETE (R80, R117, R376). -/
def execTileComplete (parity : TileParity) (s : State) : Host.Outcome State Fault Refusal :=
  blockEvent (tileComplete parity) s

/-- DELIVERY_BLOCK (R110, R113, R115, R117). -/
def execDeliveryBlock (frozen : Nat) (freeze : List Nat) (bad : Option BadPanel) (s : State) : Host.Outcome State Fault Refusal :=
  blockEvent (deliveryBlock frozen freeze bad) s

/-- DELIVERY_FOLD (R152 to R159, R186 to R198). -/
def execDeliveryFold (laneFreeze : Nat) (s : State) : Host.Outcome State Fault Refusal :=
  blockEvent (deliveryFold laneFreeze) s

/-- PASS_PARK (R81, R409). -/
def execPassPark (s : State) : Host.Outcome State Fault Refusal :=
  blockEvent (passPark) s

/-- DECISION (R200 to R213). -/
def execDecision (rescanCycles : Nat) (s : State) : Host.Outcome State Fault Refusal :=
  blockEvent (decision rescanCycles) s

/-- GEN_DRAW (R216). -/
def execGenDraw (s : State) : Host.Outcome State Fault Refusal :=
  blockEvent (genDraw) s

/-- REQUEST_COMMIT_START (R85 point 1). -/
def execRequestCommitStart (entry : Nat) (s : State) : Host.Outcome State Fault Refusal :=
  blockEvent (commitStart entry) s

/-- STATE_RECORD_WRITE (R85 point 2). -/
def execStateRecordWrite (entry : Nat) (s : State) : Host.Outcome State Fault Refusal :=
  blockEvent (stateRecWrite entry) s

/-- REQUEST_COMMITTED (R85 point 3). -/
def execRequestCommitted (entry : Nat) (s : State) : Host.Outcome State Fault Refusal :=
  blockEvent (committed entry) s

/-- DONE_COUNTER_WRITE (R85 point 4, R466). -/
def execDoneCounterWrite (s : State) : Host.Outcome State Fault Refusal :=
  blockEvent (doneWrite) s

/-- STEP_DONE (R85, R94). -/
def execStepDone (m : Measure) (s : State) : Host.Outcome State Fault Refusal :=
  blockEvent (stepDone m) s

end Sys2Proof.Machine
end

