-- ==== Sys2Proof/Machine/CmdTable.lean ====
section
/-! DEFINITION. The commands of the request table and the spill directory. -/

namespace Sys2Proof.Machine

/-- CMD_NONE: the command of code 0 pending on an entry (R253, R254). -/
def execCmdNone (entry : Nat) (s : State) : Host.Outcome State Fault Refusal :=
  blockEvent (actCmdOf 0 entry) s

/-- CMD_ADMIT: the command of code 1 pending on an entry (R253, R254). -/
def execCmdAdmit (entry : Nat) (s : State) : Host.Outcome State Fault Refusal :=
  blockEvent (actCmdOf 1 entry) s

/-- CMD_IMPORT: the command of code 2 pending on an entry (R253, R254). -/
def execCmdImport (entry : Nat) (s : State) : Host.Outcome State Fault Refusal :=
  blockEvent (actCmdOf 2 entry) s

/-- CMD_CANCEL: the command of code 3 pending on an entry (R253, R254). -/
def execCmdCancel (entry : Nat) (s : State) : Host.Outcome State Fault Refusal :=
  blockEvent (actCmdOf 3 entry) s

/-- CMD_BLOCK: the command of code 4 pending on an entry (R253, R254). -/
def execCmdBlock (entry : Nat) (s : State) : Host.Outcome State Fault Refusal :=
  blockEvent (actCmdOf 4 entry) s

/-- CMD_UNBLOCK: the command of code 5 pending on an entry (R253, R254). -/
def execCmdUnblock (entry : Nat) (s : State) : Host.Outcome State Fault Refusal :=
  blockEvent (actCmdOf 5 entry) s

/-- CMD_PAUSE: the command of code 6 pending on an entry (R253, R254). -/
def execCmdPause (entry : Nat) (s : State) : Host.Outcome State Fault Refusal :=
  blockEvent (actCmdOf 6 entry) s

/-- CMD_CHUNK: the command of code 7 pending on an entry (R253, R254). -/
def execCmdChunk (entry : Nat) (s : State) : Host.Outcome State Fault Refusal :=
  blockEvent (actCmdOf 7 entry) s

/-- CMD_EXPORT: the command of code 8 pending on an entry (R253, R254). -/
def execCmdExport (entry : Nat) (s : State) : Host.Outcome State Fault Refusal :=
  blockEvent (actCmdOf 8 entry) s

/-- CMD_RELEASE: the command of code 9 pending on an entry (R253, R254). -/
def execCmdRelease (entry : Nat) (s : State) : Host.Outcome State Fault Refusal :=
  blockEvent (actCmdOf 9 entry) s

/-- CMD_CLEAR: the command of code 10 pending on an entry (R253, R254). -/
def execCmdClear (entry : Nat) (s : State) : Host.Outcome State Fault Refusal :=
  blockEvent (actCmdOf 10 entry) s

/-- SPILL_CANCEL: the command of code 3 pending on a directory entry (R271). -/
def execSpillCancel (dir : Nat) (s : State) : Host.Outcome State Fault Refusal :=
  blockEvent (actDirOf 3 dir) s

/-- SPILL_BLOCK: the command of code 4 pending on a directory entry (R271). -/
def execSpillBlock (dir : Nat) (s : State) : Host.Outcome State Fault Refusal :=
  blockEvent (actDirOf 4 dir) s

/-- SPILL_UNBLOCK: the command of code 5 pending on a directory entry (R271). -/
def execSpillUnblock (dir : Nat) (s : State) : Host.Outcome State Fault Refusal :=
  blockEvent (actDirOf 5 dir) s

/-- RESUME: the command of code 7 pending on a directory entry (R271). -/
def execResume (dir : Nat) (s : State) : Host.Outcome State Fault Refusal :=
  blockEvent (actDirOf 7 dir) s

/-- SPILL_RELEASE: the command of code 9 pending on a directory entry (R271). -/
def execSpillRelease (dir : Nat) (s : State) : Host.Outcome State Fault Refusal :=
  blockEvent (actDirOf 9 dir) s

/-- TTL_EXPIRY (R270). -/
def execTtlExpiry (dir : Nat) (s : State) : Host.Outcome State Fault Refusal :=
  blockEvent (expireDirOf dir) s

/-- TRANSFER_DONE (R255). -/
def execTransferDone (entry : Nat) (s : State) : Host.Outcome State Fault Refusal :=
  blockEvent (transferDone entry) s

end Sys2Proof.Machine
end

