-- ==== Sys2Proof/Machine/CmdConfig.lean ====
section
/-! DEFINITION. The events that end what a configuration write began. -/

namespace Sys2Proof.Machine

/-- The invalidation has ended (R373). -/
def invalEnd (s : Block) : Block := { s with mem := { s.mem with invalBusy := false } }

/-- SFU_TABLE_CHECK_DONE (R145, R146). -/
def execSfuTableCheckDone (store : SfuStore) (s : State) : Host.Outcome State Fault Refusal :=
  blockEvent (sfuCheckDone store) s

/-- SEL_TABLE_CHECK_DONE (R179). -/
def execSelTableCheckDone (s : State) : Host.Outcome State Fault Refusal :=
  blockEvent (selCheckDone) s

/-- CFG_CHECK_DONE (R446, R448, R449). -/
def execCfgCheckDone (s : State) : Host.Outcome State Fault Refusal :=
  blockEvent (cfgCheckDone) s

/-- LOAD_BEAT (R442). -/
def execLoadBeat (s : State) : Host.Outcome State Fault Refusal :=
  blockEvent (loadBeat) s

/-- REPAIR_APPLY_DONE (R453). -/
def execRepairApplyDone (s : State) : Host.Outcome State Fault Refusal :=
  blockEvent (repairApplyDone) s

/-- RESET_COMPLETE (R435). -/
def execResetComplete (s : State) : Host.Outcome State Fault Refusal :=
  blockEvent (resetComplete) s

/-- INVAL_DONE (R373). -/
def execInvalDone (s : State) : Host.Outcome State Fault Refusal :=
  blockEvent (invalEnd) s

end Sys2Proof.Machine
end

