-- ==== Sys2Proof/Machine/CmdRidge.lean ====
section
/-! DEFINITION. The frames, messages and timeouts of the Ridge port. -/

namespace Sys2Proof.Machine

/-- RIDGE_FRAME_RX (R312 to R316). -/
def execRidgeFrameRx (bytes : List Byte) (damaged : RxWire) (m : Measure) (s : State) : Host.Outcome State Fault Refusal :=
  portEvent (rdgOn (frameRx bytes damaged m)) s

/-- BATCH_MESSAGE (R318, R325). -/
def execBatchMessage (m : Measure) (s : State) : Host.Outcome State Fault Refusal :=
  blockEvent (rdgOn (batchMessage m)) s

/-- PULL_MESSAGE (R324). -/
def execPullMessage (s : State) : Host.Outcome State Fault Refusal :=
  blockEvent (rdgOn pullMessage) s

/-- PART_MESSAGE (R319, R324). -/
def execPartMessage (src : Nat) (m : Measure) (s : State) : Host.Outcome State Fault Refusal :=
  blockEvent (rdgOn (partMessage src m)) s

/-- NAK_MESSAGE (R327, R328). -/
def execNakMessage (src : Nat) (s : State) : Host.Outcome State Fault Refusal :=
  blockEvent (rdgOn (nakMessage src)) s

/-- RESCAN_MESSAGE (R323). -/
def execRescanMessage (s : State) : Host.Outcome State Fault Refusal :=
  blockEvent (rdgOn rescanMessage) s

/-- WINDOW_MESSAGE (R323). -/
def execWindowMessage (src : Nat) (m : Measure) (s : State) : Host.Outcome State Fault Refusal :=
  blockEvent (rdgOn (windowMessage src m)) s

/-- COMMIT_MESSAGE (R321, R322). -/
def execCommitMessage (s : State) : Host.Outcome State Fault Refusal :=
  blockEvent (rdgOn commitMessage) s

/-- ABANDON_MESSAGE (R334). -/
def execAbandonMessage (m : Measure) (s : State) : Host.Outcome State Fault Refusal :=
  blockEvent (rdgOn (abandonMessage m)) s

/-- ABSENT_MESSAGE (R335). -/
def execAbsentMessage (src : Nat) (m : Measure) (s : State) : Host.Outcome State Fault Refusal :=
  blockEvent (rdgOn (absentMessage src m)) s

/-- NAK_WAIT_EXPIRY (R327). -/
def execNakWaitExpiry (m : Measure) (s : State) : Host.Outcome State Fault Refusal :=
  blockEvent (rdgOn (nakExpiry m)) s

/-- RIDGE_TIMEOUT (R329, R330). -/
def execRidgeTimeout (m : Measure) (s : State) : Host.Outcome State Fault Refusal :=
  blockEvent (rdgOn (ridgeTimeout m)) s

end Sys2Proof.Machine
end

