-- ==== Sys2Proof/Machine/CmdPower.lean ====
section
/-! DEFINITION. Pins, clocks, gates and power. -/

namespace Sys2Proof.Machine

/-- CMP_ISOLATED (R400). -/
def execCmpIsolated (s : State) : Host.Outcome State Fault Refusal :=
  blockEvent (cmpIsolatedNow) s

/-- Apply `f` to the page of an index (R459). -/
def atPage (page : BitVec 12) (f : Page → Block → Block) (s : Block) : Block :=
  match pageAt page.toNat with
  | some p => f p s
  | none => s

/-- GATE_EFFECT (R395). -/
def execGateEffect (page : BitVec 12) (s : State) : Host.Outcome State Fault Refusal :=
  blockEvent (atPage page gateEffect) s

/-- WAKE_DONE (R396). -/
def execWakeDone (page : BitVec 12) (s : State) : Host.Outcome State Fault Refusal :=
  blockEvent (atPage page wakeDone) s

/-- RST_N_ASSERT (R56, R434). -/
def execRstNAssert (s : State) : Host.Outcome State Fault Refusal :=
  mission (fun b => settle (rstAssert b)) s

/-- RST_N_DEASSERT (R383, R437). -/
def execRstNDeassert (strap : BitVec 4) (s : State) : Host.Outcome State Fault Refusal :=
  mission (fun b => settle (rstRelease strap.toNat b)) s

/-- SRAM_INIT_DONE (R437). -/
def execSramInitDone (s : State) : Host.Outcome State Fault Refusal :=
  mission (fun b => settle (sramInitDone b)) s

/-- PG_CMP_FALL (R58, R400). -/
def execPgCmpFall (s : State) : Host.Outcome State Fault Refusal :=
  mission (fun b => settle (cmpFall b)) s

/-- PG_CMP_RISE (R58, R402). -/
def execPgCmpRise (s : State) : Host.Outcome State Fault Refusal :=
  mission (fun b => settle (cmpRise b)) s

/-- PG_BASE_FALL (R58). -/
def execPgBaseFall (rail : BaseRail) (s : State) : Host.Outcome State Fault Refusal :=
  mission (fun b => settle (railFall rail b)) s

/-- PG_BASE_RISE (R58). -/
def execPgBaseRise (rail : BaseRail) (s : State) : Host.Outcome State Fault Refusal :=
  mission (fun b => settle (railRise rail b)) s

/-- DAWN_WINDOW (R383). -/
def execDawnWindow (count : BitVec 16) (s : State) : Host.Outcome State Fault Refusal :=
  mission (fun b => settle (dawnWindow count.toNat b)) s

/-- DAWN_STRAP_EXPIRY (R384). -/
def execDawnStrapExpiry (s : State) : Host.Outcome State Fault Refusal :=
  mission (fun b => settle (dawnStrap b)) s

/-- PLL_LOCK (R385, R386). -/
def execPllLock (s : State) : Host.Outcome State Fault Refusal :=
  mission (fun b => settle (pllLocked b)) s

/-- MONITOR_TRIP (R387 to R391). -/
def execMonitorTrip (cause : MonCause) (s : State) : Host.Outcome State Fault Refusal :=
  mission (fun b => settle (monitorTrip cause b)) s

/-- DIVIDER_RAMP_STEP (R393). -/
def execDividerRampStep (s : State) : Host.Outcome State Fault Refusal :=
  mission (fun b => settle (dividerStep b)) s

/-- RAMP_SLOT_END (R402). -/
def execRampSlotEnd (s : State) : Host.Outcome State Fault Refusal :=
  mission (fun b => settle (rampSlotEnd b)) s

/-- THERMAL_EVAL (R408 to R411). -/
def execThermalEval (temp : BitVec 8) (sensor : BitVec 4) (watts remaining : Nat) (s : State) : Host.Outcome State Fault Refusal :=
  mission (fun b => settle (thermalEval temp.toNat sensor.toNat watts remaining b)) s

/-- REFCLK_FIRST_EDGE (R384, R385). -/
def execRefclkFirstEdge (s : State) : Host.Outcome State Fault Refusal :=
  mission (fun b => settle (refclkEdge b)) s

end Sys2Proof.Machine
end

