-- ==== Sys2Proof/Machine/CmdMeter.lean ====
section
/-! DEFINITION. The meter island: strobes that reach it, its pins, the seal-key load and its records. -/

namespace Sys2Proof.Machine

/-- The strobes INTENT takes. -/
def isIntent : Strobe → Bool
  | .intent _ _ _ _ _ => true
  | _ => false

/-- INTENT (R419, R420). -/
def execIntent (bad : Bool) (s : State) : Host.Outcome State Fault Refusal :=
  .next (receive0 0 isIntent bad s)

/-- The strobes CONFIRM_STROBE takes. -/
def isConfirm : Strobe → Bool
  | .confirm _ _ _ _ _ => true
  | _ => false

/-- CONFIRM_STROBE (R419, R420). -/
def execConfirmStrobe (bad : Bool) (s : State) : Host.Outcome State Fault Refusal :=
  .next (receive0 0 isConfirm bad s)

/-- The strobes STROBE_CANCEL takes. -/
def isCancel : Strobe → Bool
  | .cancel _ _ _ _ _ => true
  | _ => false

/-- STROBE_CANCEL (R419, R420). -/
def execStrobeCancel (bad : Bool) (s : State) : Host.Outcome State Fault Refusal :=
  .next (receive0 0 isCancel bad s)

/-- The strobes DISCARD takes. -/
def isDiscard : Strobe → Bool
  | .discard _ _ => true
  | _ => false

/-- DISCARD (R419, R420). -/
def execDiscard (bad : Bool) (s : State) : Host.Outcome State Fault Refusal :=
  .next (receive0 0 isDiscard bad s)

/-- The strobes OPEN_DROP takes. -/
def isOpenDrop : Strobe → Bool
  | .openDrop => true
  | .rstDrop => true
  | _ => false

/-- OPEN_DROP (R419, R421). -/
def execOpenDrop (bad : Bool) (s : State) : Host.Outcome State Fault Refusal :=
  .next (receive0 0 isOpenDrop bad s)

/-- The strobes STEP_ROWS takes. -/
def isStepRows : Strobe → Bool
  | .stepRows _ _ => true
  | _ => false

/-- STEP_ROWS (R419, R424). -/
def execStepRows (bad : Bool) (s : State) : Host.Outcome State Fault Refusal :=
  .next (receive0 0 isStepRows bad s)

/-- The strobes STEP_END takes. -/
def isStepEnd : Strobe → Bool
  | .stepEnd _ _ => true
  | _ => false

/-- STEP_END (R419, R424). -/
def execStepEnd (rails : Rails) (bad : Bool) (s : State) : Host.Outcome State Fault Refusal :=
  .next (receive 0 isStepEnd rails bad s)

/-- The strobes IDLE takes. -/
def isIdle : Strobe → Bool
  | .idle => true
  | _ => false

/-- IDLE (R419, R422). -/
def execIdle (rails : Rails) (bad : Bool) (s : State) : Host.Outcome State Fault Refusal :=
  .next (receive 0 isIdle rails bad s)

/-- COUNT_STROBE (R419, R428). -/
def execCountStrobe (bad : Bool) (s : State) : Host.Outcome State Fault Refusal :=
  .next (receive0 1 isCount bad s)

/-- The strobes CLOCK_STROBE takes. -/
def isClock : Strobe → Bool
  | .clock _ => true
  | _ => false

/-- CLOCK_STROBE (R419, R391). -/
def execClockStrobe (bad : Bool) (s : State) : Host.Outcome State Fault Refusal :=
  .next (receive0 2 isClock bad s)

/-- PG_MTR_FALL (R58). -/
def execPgMtrFall (s : State) : Host.Outcome State Fault Refusal :=
  .next (mtrFall s)

/-- PG_MTR_RISE (R58, R432). -/
def execPgMtrRise (s : State) : Host.Outcome State Fault Refusal :=
  .next (mtrRise s)

/-- TEST_MODE_RISE (R60). -/
def execTestModeRise (s : State) : Host.Outcome State Fault Refusal :=
  .next (testRise s)

/-- SEAL_KEY_BYTE (R54, R425 to R427). -/
def execSealKeyByte (byte : Byte) (last : Bool) (s : State) : Host.Outcome State Fault Refusal :=
  .next (sealKey byte last s)

/-- REC_MAX_EXPIRY (R428). -/
def execRecMaxExpiry (s : State) : Host.Outcome State Fault Refusal :=
  .next ({ s with isl := recMax s.isl })

/-- CAIRN_RECORD (R428 to R431). -/
def execCairnRecord (s : State) : Host.Outcome State Fault Refusal :=
  .next ({ s with isl := cairnStart s.isl })

/-- CAIRN_RECORD_END (R53, R433). -/
def execCairnRecordEnd (s : State) : Host.Outcome State Fault Refusal :=
  .next (cairnEnd s)

end Sys2Proof.Machine
end

