-- ==== Sys2Proof/Machine/Dispatch.lean ====
section
/-! DEFINITION. The meaning of every command: one arm per row of the table, each one direct call. -/

namespace Sys2Proof.Machine

/-- The effect of a command on everything but the queue. -/
def exec (i : Instr) (s : State) : Host.Outcome State Fault Refusal :=
  match i with
  | .registerWrite addr data par => Sys2Proof.Machine.execRegisterWrite addr data par s
  | .latchingRead addr => Sys2Proof.Machine.execLatchingRead addr s
  | .tableWindowWrite addr data par => Sys2Proof.Machine.execTableWindowWrite addr data par s
  | .launchPush data par => Sys2Proof.Machine.execLaunchPush data par s
  | .meridianWord bits => Sys2Proof.Machine.execMeridianWord bits s
  | .launch remaining m => Sys2Proof.Machine.execLaunch remaining m s
  | .batchForm => Sys2Proof.Machine.execBatchForm s
  | .guardCheckBegin => Sys2Proof.Machine.execGuardCheckBegin s
  | .guardPoll => Sys2Proof.Machine.execGuardPoll s
  | .guardTimeout m => Sys2Proof.Machine.execGuardTimeout m s
  | .memReadResponse port tag beats last err => Sys2Proof.Machine.execMemReadResponse port tag beats last err s
  | .memWriteResponse port tag err => Sys2Proof.Machine.execMemWriteResponse port tag err s
  | .memTimeout port tag write => Sys2Proof.Machine.execMemTimeout port tag write s
  | .rowNormalised row => Sys2Proof.Machine.execRowNormalised row s
  | .adapterRun => Sys2Proof.Machine.execAdapterRun s
  | .tileComplete parity => Sys2Proof.Machine.execTileComplete parity s
  | .deliveryBlock frozen freeze bad => Sys2Proof.Machine.execDeliveryBlock frozen freeze bad s
  | .deliveryFold laneFreeze => Sys2Proof.Machine.execDeliveryFold laneFreeze s
  | .passPark => Sys2Proof.Machine.execPassPark s
  | .decision rescanCycles => Sys2Proof.Machine.execDecision rescanCycles s
  | .genDraw => Sys2Proof.Machine.execGenDraw s
  | .requestCommitStart entry => Sys2Proof.Machine.execRequestCommitStart entry s
  | .stateRecordWrite entry => Sys2Proof.Machine.execStateRecordWrite entry s
  | .requestCommitted entry => Sys2Proof.Machine.execRequestCommitted entry s
  | .doneCounterWrite => Sys2Proof.Machine.execDoneCounterWrite s
  | .stepDone m => Sys2Proof.Machine.execStepDone m s
  | .cmdNone entry => Sys2Proof.Machine.execCmdNone entry s
  | .cmdAdmit entry => Sys2Proof.Machine.execCmdAdmit entry s
  | .cmdImport entry => Sys2Proof.Machine.execCmdImport entry s
  | .cmdCancel entry => Sys2Proof.Machine.execCmdCancel entry s
  | .cmdBlock entry => Sys2Proof.Machine.execCmdBlock entry s
  | .cmdUnblock entry => Sys2Proof.Machine.execCmdUnblock entry s
  | .cmdPause entry => Sys2Proof.Machine.execCmdPause entry s
  | .cmdChunk entry => Sys2Proof.Machine.execCmdChunk entry s
  | .cmdExport entry => Sys2Proof.Machine.execCmdExport entry s
  | .cmdRelease entry => Sys2Proof.Machine.execCmdRelease entry s
  | .cmdClear entry => Sys2Proof.Machine.execCmdClear entry s
  | .spillCancel dir => Sys2Proof.Machine.execSpillCancel dir s
  | .spillBlock dir => Sys2Proof.Machine.execSpillBlock dir s
  | .spillUnblock dir => Sys2Proof.Machine.execSpillUnblock dir s
  | .resume dir => Sys2Proof.Machine.execResume dir s
  | .spillRelease dir => Sys2Proof.Machine.execSpillRelease dir s
  | .ttlExpiry dir => Sys2Proof.Machine.execTtlExpiry dir s
  | .transferDone entry => Sys2Proof.Machine.execTransferDone entry s
  | .grant tenant data par => Sys2Proof.Machine.execGrant tenant data par s
  | .faultClear tenant data par => Sys2Proof.Machine.execFaultClear tenant data par s
  | .tenantReset tenant data par => Sys2Proof.Machine.execTenantReset tenant data par s
  | .progSwitch data par => Sys2Proof.Machine.execProgSwitch data par s
  | .freqSwitch data par => Sys2Proof.Machine.execFreqSwitch data par s
  | .sfuTableCheckDone store => Sys2Proof.Machine.execSfuTableCheckDone store s
  | .maskSwitch data par => Sys2Proof.Machine.execMaskSwitch data par s
  | .autoSwitch data par => Sys2Proof.Machine.execAutoSwitch data par s
  | .biasSwitch data par => Sys2Proof.Machine.execBiasSwitch data par s
  | .penSwitch data par => Sys2Proof.Machine.execPenSwitch data par s
  | .selTableCheckDone => Sys2Proof.Machine.execSelTableCheckDone s
  | .genGo data par => Sys2Proof.Machine.execGenGo data par s
  | .switch data par => Sys2Proof.Machine.execSwitch data par s
  | .rollback data par => Sys2Proof.Machine.execRollback data par s
  | .cfgCheckDone => Sys2Proof.Machine.execCfgCheckDone s
  | .confirm data par => Sys2Proof.Machine.execConfirm data par s
  | .loadGo data par => Sys2Proof.Machine.execLoadGo data par s
  | .loadBeat => Sys2Proof.Machine.execLoadBeat s
  | .repairApply data par => Sys2Proof.Machine.execRepairApply data par s
  | .repairApplyDone => Sys2Proof.Machine.execRepairApplyDone s
  | .corrClear data par => Sys2Proof.Machine.execCorrClear data par s
  | .stateReqRun data par => Sys2Proof.Machine.execStateReqRun data par s
  | .stateReqDrain data par => Sys2Proof.Machine.execStateReqDrain data par s
  | .stateReqRetain data par => Sys2Proof.Machine.execStateReqRetain data par s
  | .stateReqOff data par => Sys2Proof.Machine.execStateReqOff data par s
  | .cmpIsolated => Sys2Proof.Machine.execCmpIsolated s
  | .forceFault data par => Sys2Proof.Machine.execForceFault data par s
  | .blockSoftReset data par => Sys2Proof.Machine.execBlockSoftReset data par s
  | .resetComplete => Sys2Proof.Machine.execResetComplete s
  | .pageSoftReset page data par => Sys2Proof.Machine.execPageSoftReset page data par s
  | .gateRequest page data par => Sys2Proof.Machine.execGateRequest page data par s
  | .wakeRequest page data par => Sys2Proof.Machine.execWakeRequest page data par s
  | .gateEffect page => Sys2Proof.Machine.execGateEffect page s
  | .wakeDone page => Sys2Proof.Machine.execWakeDone page s
  | .usePllSet data par => Sys2Proof.Machine.execUsePllSet data par s
  | .haltClear data par => Sys2Proof.Machine.execHaltClear data par s
  | .xltRetry data par => Sys2Proof.Machine.execXltRetry data par s
  | .xltAbort data par => Sys2Proof.Machine.execXltAbort data par s
  | .fqPop data par => Sys2Proof.Machine.execFqPop data par s
  | .invalGo data par => Sys2Proof.Machine.execInvalGo data par s
  | .invalDone => Sys2Proof.Machine.execInvalDone s
  | .ridgeFrameRx bytes damaged m => Sys2Proof.Machine.execRidgeFrameRx bytes damaged m s
  | .batchMessage m => Sys2Proof.Machine.execBatchMessage m s
  | .pullMessage => Sys2Proof.Machine.execPullMessage s
  | .partMessage src m => Sys2Proof.Machine.execPartMessage src m s
  | .nakMessage src => Sys2Proof.Machine.execNakMessage src s
  | .rescanMessage => Sys2Proof.Machine.execRescanMessage s
  | .windowMessage src m => Sys2Proof.Machine.execWindowMessage src m s
  | .commitMessage => Sys2Proof.Machine.execCommitMessage s
  | .abandonMessage m => Sys2Proof.Machine.execAbandonMessage m s
  | .absentMessage src m => Sys2Proof.Machine.execAbsentMessage src m s
  | .nakWaitExpiry m => Sys2Proof.Machine.execNakWaitExpiry m s
  | .ridgeTimeout m => Sys2Proof.Machine.execRidgeTimeout m s
  | .rstNAssert => Sys2Proof.Machine.execRstNAssert s
  | .rstNDeassert strap => Sys2Proof.Machine.execRstNDeassert strap s
  | .sramInitDone => Sys2Proof.Machine.execSramInitDone s
  | .pgCmpFall => Sys2Proof.Machine.execPgCmpFall s
  | .pgCmpRise => Sys2Proof.Machine.execPgCmpRise s
  | .pgBaseFall rail => Sys2Proof.Machine.execPgBaseFall rail s
  | .pgMtrFall => Sys2Proof.Machine.execPgMtrFall s
  | .pgMtrRise => Sys2Proof.Machine.execPgMtrRise s
  | .testModeRise => Sys2Proof.Machine.execTestModeRise s
  | .dawnWindow count => Sys2Proof.Machine.execDawnWindow count s
  | .dawnStrapExpiry => Sys2Proof.Machine.execDawnStrapExpiry s
  | .pllLock => Sys2Proof.Machine.execPllLock s
  | .monitorTrip cause => Sys2Proof.Machine.execMonitorTrip cause s
  | .dividerRampStep => Sys2Proof.Machine.execDividerRampStep s
  | .rampSlotEnd => Sys2Proof.Machine.execRampSlotEnd s
  | .thermalEval temp sensor watts remaining => Sys2Proof.Machine.execThermalEval temp sensor watts remaining s
  | .sealKeyByte byte last => Sys2Proof.Machine.execSealKeyByte byte last s
  | .intent bad => Sys2Proof.Machine.execIntent bad s
  | .confirmStrobe bad => Sys2Proof.Machine.execConfirmStrobe bad s
  | .strobeCancel bad => Sys2Proof.Machine.execStrobeCancel bad s
  | .discard bad => Sys2Proof.Machine.execDiscard bad s
  | .openDrop bad => Sys2Proof.Machine.execOpenDrop bad s
  | .stepRows bad => Sys2Proof.Machine.execStepRows bad s
  | .stepEnd rails bad => Sys2Proof.Machine.execStepEnd rails bad s
  | .idle rails bad => Sys2Proof.Machine.execIdle rails bad s
  | .countStrobe bad => Sys2Proof.Machine.execCountStrobe bad s
  | .clockStrobe bad => Sys2Proof.Machine.execClockStrobe bad s
  | .recMaxExpiry => Sys2Proof.Machine.execRecMaxExpiry s
  | .cairnRecord => Sys2Proof.Machine.execCairnRecord s
  | .cairnRecordEnd => Sys2Proof.Machine.execCairnRecordEnd s
  | .mcSyncRiseInWord => Sys2Proof.Machine.execMcSyncRiseInWord s
  | .pgBaseRise rail => Sys2Proof.Machine.execPgBaseRise rail s
  | .refclkFirstEdge => Sys2Proof.Machine.execRefclkFirstEdge s

end Sys2Proof.Machine
end

