-- ==== Sys2Proof/WellFormed.lean ====
section
/-! DEFINITION. Which commands are well formed: a row names an operand the manual gives it. A register-write
row of its own demands the bit or field value that makes the write that row; an entry index lies within the
16,384 entries of R250, a port within the four of R40, and so on. -/

namespace Sys2Proof

open Machine in
/-- The decidable form of well-formedness. -/
def wellFormed (i : Instr) : Bool :=
  match i with
  | .registerWrite _ _ _ => true
  | .latchingRead _ => true
  | .tableWindowWrite addr _ _ => decide (0x500000 ≤ addr.toNat)
  | .launchPush _ _ => true
  | .meridianWord _ => true
  | .launch _ _ => true
  | .batchForm => true
  | .guardCheckBegin => true
  | .guardPoll => true
  | .guardTimeout _ => true
  | .memReadResponse port tag beats _ _ =>
    decide (port < 4) && decide (tag < 64) && decide (beats.length ≤ 4)
  | .memWriteResponse port tag _ => decide (port < 4) && decide (tag < 32)
  | .memTimeout port tag _ => decide (port < 4) && decide (tag < 64)
  | .rowNormalised row => decide (row < 16384)
  | .adapterRun => true
  | .tileComplete _ => true
  | .deliveryBlock frozen freeze _ =>
    decide (freeze.length ≤ 4) && freeze.all fun n => decide (n ≤ frozen)
  | .deliveryFold _ => true
  | .passPark => true
  | .decision _ => true
  | .genDraw => true
  | .requestCommitStart entry => decide (entry < 16384)
  | .stateRecordWrite entry => decide (entry < 16384)
  | .requestCommitted entry => decide (entry < 16384)
  | .doneCounterWrite => true
  | .stepDone _ => true
  | .cmdNone entry => decide (entry < 16384)
  | .cmdAdmit entry => decide (entry < 16384)
  | .cmdImport entry => decide (entry < 16384)
  | .cmdCancel entry => decide (entry < 16384)
  | .cmdBlock entry => decide (entry < 16384)
  | .cmdUnblock entry => decide (entry < 16384)
  | .cmdPause entry => decide (entry < 16384)
  | .cmdChunk entry => decide (entry < 16384)
  | .cmdExport entry => decide (entry < 16384)
  | .cmdRelease entry => decide (entry < 16384)
  | .cmdClear entry => decide (entry < 16384)
  | .spillCancel dir => decide (dir < 16384)
  | .spillBlock dir => decide (dir < 16384)
  | .spillUnblock dir => decide (dir < 16384)
  | .resume dir => decide (dir < 16384)
  | .spillRelease dir => decide (dir < 16384)
  | .ttlExpiry dir => decide (dir < 16384)
  | .transferDone entry => decide (entry < 16384)
  | .grant _ _ _ => true
  | .faultClear _ data _ => bit data 0
  | .tenantReset _ data _ => bit data 0
  | .progSwitch data _ => bit data 0
  | .freqSwitch data _ => bit data 1
  | .sfuTableCheckDone _ => true
  | .maskSwitch data _ => bit data 0
  | .autoSwitch data _ => bit data 1
  | .biasSwitch data _ => bit data 2
  | .penSwitch data _ => bit data 3
  | .selTableCheckDone => true
  | .genGo data _ => bit data 0
  | .switch data _ => bit data 0
  | .rollback data _ => bit data 1
  | .cfgCheckDone => true
  | .confirm data _ => bit data 2
  | .loadGo data _ => bit data 3
  | .loadBeat => true
  | .repairApply data _ => bit data 4
  | .repairApplyDone => true
  | .corrClear data _ => bit data 0
  | .stateReqRun data _ => decide (bits data 2 0 = 0)
  | .stateReqDrain data _ => decide (bits data 2 0 = 2)
  | .stateReqRetain data _ => decide (bits data 2 0 = 3)
  | .stateReqOff data _ => decide (bits data 2 0 = 4)
  | .cmpIsolated => true
  | .forceFault data _ => bit data 1
  | .blockSoftReset data _ => bit data 0
  | .resetComplete => true
  | .pageSoftReset page data _ => decide (page.toNat < 0x500) && bit data 0
  | .gateRequest page data _ => decide (page.toNat < 0x500) && !bit data 0
  | .wakeRequest page data _ => decide (page.toNat < 0x500) && bit data 0
  | .gateEffect page => decide (page.toNat < 0x500)
  | .wakeDone page => decide (page.toNat < 0x500)
  | .usePllSet data _ => bit data 0
  | .haltClear data _ => bit data 0
  | .xltRetry data _ => bit data 11 && !bit data 10
  | .xltAbort data _ => bit data 11 && bit data 10
  | .fqPop data _ => bit data 0
  | .invalGo data _ => bit data 11
  | .invalDone => true
  | .ridgeFrameRx _ _ _ => true
  | .batchMessage _ => true
  | .pullMessage => true
  | .partMessage src _ => decide (src < 256)
  | .nakMessage src => decide (src < 256)
  | .rescanMessage => true
  | .windowMessage src _ => decide (src < 256)
  | .commitMessage => true
  | .abandonMessage _ => true
  | .absentMessage src _ => decide (src < 256)
  | .nakWaitExpiry _ => true
  | .ridgeTimeout _ => true
  | .rstNAssert => true
  | .rstNDeassert _ => true
  | .sramInitDone => true
  | .pgCmpFall => true
  | .pgCmpRise => true
  | .pgBaseFall _ => true
  | .pgMtrFall => true
  | .pgMtrRise => true
  | .testModeRise => true
  | .dawnWindow _ => true
  | .dawnStrapExpiry => true
  | .pllLock => true
  | .monitorTrip _ => true
  | .dividerRampStep => true
  | .rampSlotEnd => true
  | .thermalEval _ _ _ _ => true
  | .sealKeyByte _ _ => true
  | .intent _ => true
  | .confirmStrobe _ => true
  | .strobeCancel _ => true
  | .discard _ => true
  | .openDrop _ => true
  | .stepRows _ => true
  | .stepEnd _ _ => true
  | .idle _ _ => true
  | .countStrobe _ => true
  | .clockStrobe _ => true
  | .recMaxExpiry => true
  | .cairnRecord => true
  | .cairnRecordEnd => true
  | .mcSyncRiseInWord => true
  | .pgBaseRise _ => true
  | .refclkFirstEdge => true

/-- A well-formed command. -/
abbrev WellFormed (i : Instr) : Prop := wellFormed i = true

end Sys2Proof
end

