-- ==== Sys2Proof/Claims.lean ====
section
/-! DEFINITION. The words the statements share: a command *does* something to the block when it answers the next state
whose block is the given one with whatever the memory ports can issue after it (`settle`), the island and the queue
of commands as before; and when a page, a window or an event of the block is open. -/

namespace Sys2Proof.Claims

open Machine

/-- Command `c` in state `s` has the effect `b` on the block and none on the island or the queue. -/
def Does (c : Instr) (s : State) (b : Block) : Prop := exec c s = .next { s with blk := settle b }

/-- The block with an OKAY response to a write sent. -/
def okay (b : Block) : Block := { b with out := b.out ++ [rspOut 0 0] }

/-- Page `p` takes requests: mission mode, out of reset, a clock, no block soft reset, and not gated. -/
abbrev PortOpen (b : Block) (p : Page) : Prop :=
  b.testMode = false ∧ b.pwr.rstLow = false ∧ frontOnly b = false ∧ gatedOut b p = false

/-- The front end reaches the pages: mission mode, out of reset, a clock, no block soft reset. -/
abbrev FrontOpen (b : Block) : Prop := b.testMode = false ∧ b.pwr.rstLow = false ∧ frontOnly b = false

/-- A write to page `g` is accepted: the page is open and the parity of the word matches. -/
abbrev Accepts (b : Block) (g : Page) (d : Word) (p : BitVec 4) : Prop := PortOpen b g ∧ p.toNat = parBits 4 d.toNat

/-- The table windows that no page owns take requests. -/
abbrev WindowOpen (b : Block) : Prop :=
  b.testMode = false ∧ b.pwr.rstLow = false ∧ frontOnly b = false ∧ b.sramInit = false ∧ b.cfg.repairDone = true

/-- An event inside the block finds a control clock. -/
abbrev Live (b : Block) : Prop := b.testMode = false ∧ ctrlClock b = true

/-- No switch is pending or under check. -/
abbrev BanksIdle (b : Block) : Prop :=
  b.cfg.pending = false ∧ b.cfg.checking = false ∧ b.cfg.rolling = false

/-- Switched store `k` is neither pending nor under check. -/
abbrev StoreIdle (b : Block) (k : Nat) : Prop := b.epochs.pending.getD k false = false ∧ storeChecking b k = false

/-- A request to address `a` is in error with this cause (R37, R467): misaligned, an address of no page or window, a page or
window whose sub-block is gated, but for the three registers that answer then (R396), or, where `bad` says so, a write of wrong
parity. -/
def InError (k : Block) (a : Nat) (bad : Bool) (cause : Nat) : Prop :=
  (cause = 1 ∧ a % 4 ≠ 0) ∨
  (cause = 2 ∧ a % 4 = 0 ∧ a < 0x500000 ∧ pageAt (a / 0x1000) = none) ∨
  (cause = 2 ∧ a % 4 = 0 ∧ 0x500000 ≤ a ∧ winAt (apertureSel k) a = none) ∨
  (∃ g : Page, a % 4 = 0 ∧ a < 0x500000 ∧ pageAt (a / 0x1000) = some g ∧ absentAry k g = false ∧
    ((cause = 3 ∧ gatedOut k g = true ∧ a % 0x1000 ∉ [0x000, 0x004, 0x028]) ∨
     (cause = 4 ∧ bad = true ∧ (gatedOut k g = false ∨ a % 0x1000 ∈ [0x000, 0x004, 0x028])))) ∨
  (∃ w : Win × Nat, a % 4 = 0 ∧ 0x500000 ≤ a ∧ winAt (apertureSel k) a = some w ∧ k.sramInit = false ∧
    ((cause = 3 ∧ ∃ g, winOwner w.1 = some g ∧ gatedOut k g = true) ∨
     (cause = 4 ∧ bad = true ∧ ∀ g, winOwner w.1 = some g → gatedOut k g = false)))

/-- `b` stands where `k` has answered a request to `a` with ERROR: nothing else changes but what DBG records of it while it has
its clock (R37, R467). -/
def ErrorAnswered (k b : Block) (a : Nat) (write : Bool) (cause : Nat) : Prop :=
  b = { k with
    out := k.out ++ [rspOut 1 0]
    reg := { k.reg with errAddr := b.reg.errAddr, errCause := b.reg.errCause, counts := b.reg.counts } } ∧
  (gatedOut k .dbg = false → b.reg.errAddr = a + (if write then 2 ^ 24 else 0) ∧ b.reg.errCause = cause ∧
    b.reg.counts = tmod (fun _ => 0) k.reg.counts 0x00E098 fun n => sat32 (n + 1)) ∧
  (gatedOut k .dbg = true → b.reg = k.reg)

/-- The word that a read of window `v` shows at byte `off` (R270, R271, R280, R447, R469): the host and the block region of an
entry, a word of a store, of the active or the idle bank, of a directory entry in use, of the repair map, or a policy register,
GRANT reading zero. -/
def WindowShows (k : Block) (v : Win) (off : Nat) (w : Word) : Prop :=
  (v = .reqTable → off % 512 < 256 → w = tget zeroWord k.host (off / 512 * 128 + off % 512 / 4)) ∧
  (v = .reqTable → 256 ≤ off % 512 → w = blockWord (hostWords k (off / 512)) (entryAt k (off / 512)) (off % 512 / 4)) ∧
  (∀ t : Table Word, (v, t) ∈ [(Win.bitmaps, k.stores.bitmaps), (.automata, k.stores.automata), (.bias, k.stores.bias),
    (.penalty, k.stores.penalty), (.prog, k.stores.prog), (.freq, k.stores.freq), (.repair, k.stores.repair)] →
    w = tget zeroWord t (off / 4)) ∧
  (∀ b n : Nat, v = .config → b = (if off < 0x100000 then k.cfg.active else 1 - k.cfg.active) →
    n = (bankWord k b 0x10).toNat →
    w = if 0x40000 ≤ n ∧ n ≤ 0x100000 ∧ n % 64 = 0 ∧ n ≤ off % 0x100000 then 0 else bankWord k b (off % 0x100000)) ∧
  (v = .dir → spillN k ≤ off / 16 → w = 0) ∧
  (∀ e : DirEntry, v = .dir → off / 16 < spillN k → e = dirAt k (off / 16) →
    (off % 16 / 4 = 0 → w = tget zeroWord k.dirHost (off / 16)) ∧
    (off % 16 / 4 = 1 → w = w32 (estateCode e.state + e.ackSeq * 2 ^ 4 + e.tenant * 2 ^ 12)) ∧
    (off % 16 / 4 = 2 → w = w32 e.reqId) ∧ (off % 16 / 4 = 3 → w = e.word3)) ∧
  (v = .policy → w = if off % 0x40 = 0x0C then 0 else wr k (0xFC0000 + off))

/-- The commands of the meter island: its strobes, its pins, its seal-key port and its records. -/
def ofIsland (c : Instr) : Bool :=
  match c with
  | .intent _ => true
  | .confirmStrobe _ => true
  | .strobeCancel _ => true
  | .discard _ => true
  | .openDrop _ => true
  | .stepRows _ => true
  | .stepEnd _ _ => true
  | .idle _ _ => true
  | .countStrobe _ => true
  | .clockStrobe _ => true
  | .pgMtrFall => true
  | .pgMtrRise => true
  | .testModeRise => true
  | .sealKeyByte _ _ => true
  | .recMaxExpiry => true
  | .cairnRecord => true
  | .cairnRecordEnd => true
  | _ => false

/-- The count the launch staging registers hold (R63). -/
def stagedCount (b : Block) : Nat := (wr b (reg .mer 0x080)).toNat + (wr b (reg .mer 0x084)).toNat * 2 ^ 32

/-- The channel a strobe command listens on and the strobes it takes. -/
def islandStrobe (c : Instr) : Option (Nat × (Strobe → Bool)) :=
  match c with
  | .intent _ => some (0, isIntent)
  | .confirmStrobe _ => some (0, isConfirm)
  | .strobeCancel _ => some (0, isCancel)
  | .discard _ => some (0, isDiscard)
  | .openDrop _ => some (0, isOpenDrop)
  | .stepRows _ => some (0, isStepRows)
  | .stepEnd _ _ => some (0, isStepEnd)
  | .idle _ _ => some (0, isIdle)
  | .countStrobe _ => some (1, isCount)
  | .clockStrobe _ => some (2, isClock)
  | _ => none

/-- Registers of a page whose write is plain (R12, R17): not one that acts beyond its own value, as GLB.CTRL, CLK.DIV,
PWR.STATE_REQ and COSTc, REQ.SPILL_N, XLT.INVAL and TEN.CTR_SEL do. -/
def plainReg (g : Page) (off : Nat) : Bool :=
  match g with
  | .glb => off ≠ 0x008
  | .clk => off ≠ 0x080
  | .pwr => !(off = 0x080 || off = 0x08C || off = 0x090 || off = 0x094 || off = 0x098)
  | .req => off ≠ 0x0B4
  | .xlt => off ≠ 0x084
  | .ten _ => off ≠ 0x094
  | _ => true

/-- A write to this offset of a page has no effect: a read-only or a reserved one (R12, R13). -/
def inert (g : Page) (off : Nat) : Bool :=
  (rwDef (pageBase g + off)).isNone && !([0x008, 0x00C, 0x018, 0x028, 0x02C] : List Nat).contains off &&
  (match g with
   | .pwr => off ≠ 0x080
   | .mer => off ≠ 0x088
   | .sfu => off ≠ 0x090
   | .sel => off ≠ 0x080
   | .smp => off ≠ 0x0B0
   | .xlt => !(off = 0x080 || off = 0x098)
   | _ => true)

/-- Places of a word `w` of a table store that take a written value, the reserved ones reading zero (R12, R139, R141, R148,
R160, R166, R171). -/
def placeMask (v : Win) (off : Nat) (w : Word) : Word :=
  match v with
  | .automata => if off % 128 < 104 then 0xFFFFFFFF else 0
  | .bias => if off % 8 < 4 then 0x803FFFFF else 0xFFFFFFFF
  | .penalty => if off % 32 < 16 then 0xFFFFFFFF else 0
  | .prog => if off % 0x20000 < 8 then 0xFFFF else if off % 0x20000 < 0x400 then 0
    else if off % 0x20000 < 0x800 ∨ bits w 31 26 = 7 then 0xFFFFFFFF
    else if bits w 31 26 = 9 then 0xFFFFFF03 else 0xFFFFFF00
  | .freq =>
    if off % 0x1000 < 4 then 0x3FFFFFFF else if off % 0x1000 < 8 then 7 else if off % 0x1000 < 16 then 0
    else 0xFFFFFFFF
  | _ => 0xFFFFFFFF

/-- `b` stands with bit `n` of page `g`'s STATUS set and every other bit of every STATUS, and every other register, as in
`s`. -/
def FlagRaised (s b : Block) (g : Page) (n : Nat) : Prop :=
  flagWord g b = flagWord g s ||| w32 (2 ^ n) ∧ (∀ q, pageBase q ≠ pageBase g → flagWord q b = flagWord q s) ∧
  b.reg = { s.reg with flags := b.reg.flags }

/-- Pages whose RW-step registers a formation reads (R75). -/
def stepPage (g : Page) : Bool :=
  match g with
  | .sch => true
  | .req => true
  | .ten _ => true
  | _ => false

/-- A base-tier rail counts high. -/
def railUp (b : Block) (r : BaseRail) : Bool :=
  match r with
  | .base => b.pwr.pgBase
  | .sram => b.pwr.pgSram
  | .io => b.pwr.pgIo

/-- Address and data of a row that writes one register. -/
def portRow (c : Instr) : Option (Nat × Word × BitVec 4) :=
  match c with
  | .launchPush d p => some (0x004088, d, p)
  | .grant n d p => some (0xFC000C + n.toNat * 0x40, d, p)
  | .faultClear n d p => some (0x100008 + n.toNat * 0x1000, d, p)
  | .tenantReset n d p => some (0x10002C + n.toNat * 0x1000, d, p)
  | .progSwitch d p => some (0x007090, d, p)
  | .freqSwitch d p => some (0x007090, d, p)
  | .maskSwitch d p => some (0x008080, d, p)
  | .autoSwitch d p => some (0x008080, d, p)
  | .biasSwitch d p => some (0x008080, d, p)
  | .penSwitch d p => some (0x008080, d, p)
  | .genGo d p => some (0x0090B0, d, p)
  | .switch d p => some (0x003008, d, p)
  | .rollback d p => some (0x003008, d, p)
  | .confirm d p => some (0x003008, d, p)
  | .loadGo d p => some (0x003008, d, p)
  | .repairApply d p => some (0x003008, d, p)
  | .corrClear d p => some (0x002008, d, p)
  | .stateReqRun d p => some (0x002080, d, p)
  | .stateReqDrain d p => some (0x002080, d, p)
  | .stateReqRetain d p => some (0x002080, d, p)
  | .stateReqOff d p => some (0x002080, d, p)
  | .forceFault d p => some (0x000008, d, p)
  | .blockSoftReset d p => some (0x00002C, d, p)
  | .pageSoftReset g d p => some (g.toNat * 0x1000 + 0x02C, d, p)
  | .gateRequest g d p => some (g.toNat * 0x1000 + 0x028, d, p)
  | .wakeRequest g d p => some (g.toNat * 0x1000 + 0x028, d, p)
  | .usePllSet d p => some (0x001008, d, p)
  | .haltClear d p => some (0x00C008, d, p)
  | .xltRetry d p => some (0x00B080, d, p)
  | .xltAbort d p => some (0x00B080, d, p)
  | .fqPop d p => some (0x00B098, d, p)
  | .invalGo d p => some (0x00B084, d, p)
  | _ => none

/-- A write of `d` that register `a` of page `g`, which `x` describes, took on block `k`, leaving `b`: the fields in range
stand as written, one out of range stays and raises the page's BAD_PARAM, and every other register, and every value in force,
is as it was (R12, R15, R17). An RW-step write marks a batch formed in advance on the pages a formation reads (R75), and is
kept through a page reset already asked for (R434). -/
def Takes (k : Block) (g : Page) (a : Nat) (x : RwDef) (d : Word) (b : Block) : Prop :=
  wr b a = (x.merge (wr k) (wr k a) d).1 ∧ (∀ j, j ≠ a → wr b j = wr k j) ∧
  b = { k with reg := { k.reg with
    written := b.reg.written, flags := b.reg.flags, stale := b.reg.stale, sinceReset := b.reg.sinceReset } } ∧
  b.reg.flags = (if (x.merge (wr k) (wr k a) d).2 then (badParam g k).reg.flags else k.reg.flags) ∧
  (isStep a = false → b.reg.stale = k.reg.stale ∧ b.reg.sinceReset = k.reg.sinceReset) ∧
  (k.reg.resetPend.contains (pageBase g) = false → b.reg.sinceReset = k.reg.sinceReset) ∧
  (isStep a = true → (x.merge (wr k) (wr k a) d).2 = false → b.reg.stale = (k.reg.stale || stepPage g) ∧
    b.reg.sinceReset = k.reg.sinceReset ++ (if k.reg.resetPend.contains (pageBase g) then [a] else []))

/-- What a boundary first does to block `q`, leaving `h` (R340): nothing without a HALT_CLEAR; with one, HALT and what RDG
recorded of the group fault clear, and a parked sharded pass is abandoned: its entries return to their previous states, its
energy is accounted and its STEP_END goes to the meter (R72, R334, R405, R422). -/
def HaltCleared (m : Measure) (q h : Block) : Prop :=
  (q.rdg.clearPend = false → h = q) ∧
  (q.rdg.clearPend = true →
    h.rdg.halt = false ∧ h.rdg.resync = false ∧ h.rdg.missing = [] ∧ h.rdg.gfault = 0 ∧ h.rdg.gshard = 0 ∧
    h.rdg.clearPend = false ∧
    (∀ (i : Nat) (c : Ctx), (i, c) ∈ ctxs q → c.parked = true → c.sharded = true → ctxOf h i = none) ∧
    ((∀ (i : Nat) (c : Ctx), (i, c) ∈ ctxs q → (c.parked && c.sharded) = false) → h = { q with rdg := { q.rdg with
      halt := false, resync := false, missing := [], gfault := 0, gshard := 0, clearPend := false } }) ∧
    (∀ (i : Nat) (c : Ctx), ctxs q = [(i, c)] → c.parked = true → c.sharded = true →
      ctxs h = [] ∧ h.step.outcome = .groupAbandoned ∧ h.step.num = c.num ∧ h.step.digest = 0 ∧
      h.running = (if q.running = some i then none else q.running) ∧
      h.rdg = { q.rdg with
        halt := false, resync := false, missing := [], gfault := 0, gshard := 0, clearPend := false
        ended := q.rdg.ended ++ [c.num], rx := h.rdg.rx, taken := h.rdg.taken } ∧
      (∀ f, f ∈ h.rdg.rx ↔ f ∈ q.rdg.rx ∧ (f.step ≠ c.num ∨ f.kind = 4)) ∧
      h.pwr = { q.pwr with
        acc := q.pwr.acc + m.energy - c.batch.energy, lastPred := c.batch.energy, lastMeas := m.energy } ∧
      h.strobes = (strobe (.stepEnd c.num false)
        ((tenantRows c.batch).foldl (fun b t => strobe (.stepRows t.1 t.2) b) q)).strobes ∧
      (∀ r, r ∈ c.batch.reqs → (∀ o, o ∈ c.batch.reqs → o.entry = r.entry → o = r) → r.prev ≠ .done →
        (entryAt q r.entry).state = .inflight → entryAt h r.entry = { entryAt q r.entry with state := r.prev }) ∧
      (c.reqs.filter leaves = [] → h.used = q.used ∧ h.leftPages = q.leftPages) ∧
      h = { q with
        ctx0 := h.ctx0, ctx1 := h.ctx1, running := h.running, mem := h.mem, forming := h.forming
        entries := h.entries, used := h.used, leftPages := h.leftPages, pwr := h.pwr, strobes := h.strobes
        step := h.step, rdg := h.rdg }))

/-- What a step boundary then does to block `h`, leaving `x`, before it serves the tenants (R61): the page soft resets that
wait take effect, each of its own page, but for an RW-step register written since it was asked for (R434); the values as
written come into force, but for such a register while its page reset waits (R61, R434); then a pending bank becomes active, then pending epochs do. While a pass runs on or is parked, bank,
epochs, repairs and page resets wait (R83, R118, R434). A switch of the bank opens the watchdog window or records ROLLED_BACK
(R450). A transfer that has ended gives its entry its state, and its directory entry in use (R255). A new POOL_PAGES or PAGE_SHIFT is discarded while a
request holds pages (R277). -/
def BoundaryParts (h x : Block) : Prop :=
  (∀ a : Nat, (a ∉ h.reg.sinceReset ∨ (anyPass h = false ∧ ∃ p, p ∈ h.reg.resetPend ∧ p ≤ a ∧ a < p + 0x1000) →
      tget resetVal x.reg.inForce a = wr x a) ∧
    (anyPass h = true → a ∈ h.reg.sinceReset → tget resetVal x.reg.inForce a = tget resetVal h.reg.inForce a)) ∧
  x.launched = true ∧ (h.launched = false → bit (irqStat .glb x) 2 = true) ∧
  x.rdg = h.rdg ∧ x.ctx0 = h.ctx0 ∧ x.ctx1 = h.ctx1 ∧
  (∀ (i : Nat) (st : EState) (k : Nat), (entryAt h i).arrive = some (st, k) →
    (entryAt x i).state = st ∧ (entryAt x i).arrive = none ∧ (st = .fault → (entryAt x i).efault = k) ∧
    (st = .free → (entryAt x i).pages = [])) ∧
  (∀ (d : Nat) (st : EState), d < spillN h → (dirAt h d).ended = true → (dirAt h d).arrive = some st →
    (dirAt x d).state = st ∧ (dirAt x d).ended = false ∧ (dirAt x d).arrive = none) ∧
  (h.used ≠ [] → ∀ a ∈ [0x006080, 0x006084],
    a ∉ h.reg.sinceReset ∨ (anyPass h = false ∧ 0x006000 ∈ h.reg.resetPend) → wr x a = tget resetVal h.reg.inForce a) ∧
  (anyPass h = true → x.cfg = h.cfg ∧ x.epochs = h.epochs ∧ x.repairs = h.repairs ∧ x.arrays = h.arrays ∧
    x.nArr = h.nArr ∧ x.reg.resetPend = h.reg.resetPend ∧
    ∀ a, (a ≠ 0x006080 ∧ a ≠ 0x006084) ∨ h.used = [] ∨ a ∈ h.reg.sinceReset → wr x a = wr h a) ∧
  (anyPass h = false →
    x.reg.resetPend = [] ∧
    (∀ (a : Nat) (l : List Nat), (a ≠ 0x006080 ∧ a ≠ 0x006084) ∨ h.used = [] →
      l = h.reg.resetPend.filter (fun p => decide (p ≤ a) && decide (a < p + 0x1000)) →
      (l = [] → wr x a = wr h a) ∧ (l ≠ [] → a ∉ h.reg.sinceReset → wr x a = resetVal a) ∧
      (∀ p, l = [p] → a ∈ h.reg.sinceReset → wr x a = wr h a)) ∧
    (∀ g : Page, pageBase g ∈ h.reg.resetPend →
      g ∈ [Page.clk, .mer, .sch, .sfu, .sel, .smp, .spc, .xlt, .rdg, .dbg] → irqStat g x = 0 ∧ flagWord g x = 0) ∧
    (h.cfg.pending = false → x.cfg = h.cfg) ∧
    (∀ (steps : Nat) (opens : Bool), h.cfg.pending = true → steps = bits (wr x 0x00309C) 15 0 →
      opens = (!h.cfg.pendIsRollback && decide (0 < steps) && h.cfg.activeValid) →
      x.cfg = { h.cfg with
        active := 1 - h.cfg.active, activeValid := true, idleValid := h.cfg.activeValid, pending := false
        pendIsRollback := false, pendIsAuto := false, wdOpen := opens, wdLeft := if opens then steps else 0 } ∧
      (h.cfg.pendIsAuto = true → bit (flagWord .cfg x) 6 = true ∧ bit (irqStat .cfg x) 1 = true)) ∧
    (∀ k, k < h.epochs.active.length → x.epochs.active.getD k 0 =
      if h.epochs.pending.getD k false then 1 - h.epochs.active.getD k 0 else h.epochs.active.getD k 0) ∧
    (∀ k, x.epochs.pending.getD k false = false) ∧
    (∀ n, n < 4 → x.repairs.getD n 0 = wr x (reg (.ary n) 0x080)) ∧ x.arrays = arraysInUse h.grade x.repairs ∧
    x.nArr = x.arrays.length)

/-- What a boundary then does to the tenants of block `x`, leaving `z`. FAULT_CLEAR: the faults raised since it stand, the
older ones are gone (R299). A tenant reset takes effect once it may (R301). The grants are added and the periods since the
last refill refilled, never above CAP (R285); a product past 2^64 wraps, which is the model's reading (log entry 153). A tenant
with EN in force is ACTIVE (R281); without it, an ACTIVE one drains and a DRAINING one goes on, and either is DUSK, with its
interrupt, once nothing of it is left to wait for (R282, R283). FAIR of an ACTIVE tenant that does not compete rises to the
lowest of those that do (R290). -/
def TenantEffects (x z : Block) : Prop :=
  z.lastRefill = some (match x.lastRefill with
    | some p => max p (curPeriod x)
    | none => curPeriod x) ∧
  ∀ (n k : Nat) (t u : Tenant) (cap sum : Int), n < 1024 → twf (fun _ => DirEntry.freed) x.dir = true →
    t = tenantAt x n → u = tenantAt z n →
    k = (match x.lastRefill with
      | some p => curPeriod x - p
      | none => 0) →
    cap = ((rf x (tpolReg n 8)).toNat : Int) → sum = satI32 (t.balance + t.grant) →
    u.grant = 0 ∧ (k = 0 ∨ cap ≤ sum → u.balance = sum) ∧
    (0 < k → sum < cap →
      u.balance = min cap (sum + (((rf x (tpolReg n 4)).toNat * k % 2 ^ 64 : Nat) : Int))) ∧
    (bit (rf x (tpolReg n 0)) 0 = true → u.state = .active) ∧
    (bit (rf x (tpolReg n 0)) 0 = false → (t.resetPend && resetReady x n) = false →
      (t.state = .dusk → u.state = .dusk) ∧
      (t.state = .active → anyEntry x n working = true ∨ (∃ d, d ∈ x.dir ∧ d.2.tenant = n ∧ d.2.state ≠ .free) →
        u.state = .draining ∧ u.cancelsDone = false) ∧
      (t.state = .draining → tenantBusy x n = true ∨ tenantInPass x n = true →
        u.state = .draining ∧ u.cancelsDone = t.cancelsDone) ∧
      (t.state ≠ .dusk → tenantBusy x n = false → t.state = .active ∨ tenantInPass x n = false →
        u.state = .dusk ∧ bit (irqStat (.ten n) z) 2 = true)) ∧
    ((t.resetPend && resetReady x n) = false →
      (anyEntry x n competing = true ∨ u.state ≠ .active → u.fair = t.fair) ∧
      (anyEntry x n competing = false → u.state = .active → u.fair = (match fairMin z with
        | some f => max t.fair f
        | none => t.fair))) ∧
    (t.resetPend = false → t.clearPend = true → u.faultCode = t.sinceCode ∧ u.faultAddr = t.sinceAddr ∧
      u.faultMore = sat32 (t.sinceN - 1) ∧ u.clearPend = false) ∧
    (t.resetPend = false → t.clearPend = false → u.faultCode = t.faultCode ∧ u.faultAddr = t.faultAddr ∧
      u.faultMore = t.faultMore) ∧
    (t.resetPend = true → resetReady x n = false → u.resetPend = true) ∧
    (t.resetPend = true → resetReady x n = true → u.resetPend = false ∧ u.faultCode = 0 ∧ u.faultAddr = 0 ∧
      u.faultMore = 0 ∧ u.entryFaults = 0 ∧ bit (irqStat (.ten n) z) 5 = true ∧
      (∀ i, (entryAt x i).state ≠ .free → (entryAt x i).tenant = n → (entryAt z i).state = .free ∧
        (entryAt z i).pages = [] ∧ (entryAt z i).ackSeq = hCmdSeq (hostWords x i)) ∧
      (∀ d, (dirAt x d).state ≠ .free → (dirAt x d).tenant = n → (dirAt z d).state = .free) ∧
      (∀ r, r < 4 → countOf (ringHeadReg n r) z = 0 ∧ wr z (tenReg n (0x190 + 0x20 * r)) = 0))

/-- A row that a cause has removed (R102, R128, R363): its cause, nothing in the activation buffer, and no statistics. -/
def lostRow (cause : Nat) (p : PRow) : PRow := { p with removed := cause, act := [], scales := [], stats := none }

/-- A row that left the activation buffer for parity (R117). -/
def awayRow (p : PRow) : PRow := { p with fetched := none, ready := false, adapted := false, act := [], scales := [] }

/-- What the run of adapter `slot` of tenant `t`, with weights `w`, makes of row `r` in block `k`, leaving `b` (R103, R104, R125,
R126): a row that names it and stands in the buffer takes the activation and scales of the adapter's sum, its saturated
elements counted, or is removed and counted where a value is not finite; any other is left alone. -/
def RowAdapted (i t slot : Nat) (w : List Byte) (r : Nat) (k b : Block) : Prop :=
  ∀ (c : Ctx) (p : PRow) (q : BRow), ctxOf k i = some c → c.rows[r]? = some p → c.batch.rows[r]? = some q →
    (namesAdapter c.batch t slot q = false ∨ p.adapted = true ∨ p.ready = false ∨ p.removed ≠ 0 → b = k) ∧
    (∀ (d : AdpDesc) (y : Option (List Nat × List Nat) × Nat), namesAdapter c.batch t slot q = true → p.adapted = false →
      p.ready = true → p.removed = 0 → d = adpDesc c.regs t slot →
      y = adaptRow (capCompat c) (ctxAct c) (adpFmt d.fmt) d.r (bankH k c.bank) d.act d.alpha w p.act p.scales →
      (∀ v, y.1 = some v → b = countUp 0x007084 y.2
        (setCtx i (some { c with rows := c.rows.set r { p with adapted := true, act := v.1, scales := v.2 } }) k)) ∧
      (y.1 = none → b = countUp 0x007084 y.2 (countUp 0x007088 1
        (setCtx i (some { c with rows := c.rows.set r (lostRow 0x08 p) }) k))))

/-- What the lane of place `j` of the present tile makes of the scores `raw` of column block `cb`, `odd` those of its
unconditional row, in block `k`, leaving `b` (R152 to R159, R186, R189, R204): the final scores of the block's columns enter the
working copy of its row, in a rescan round the window alone; NaN and saturated scores are counted. An unconditional or a
removed row has no lane. -/
def LaneLeaves (i j cb : Nat) (raw odd : List Word) (k b : Block) : Prop :=
  ∀ (c : Ctx) (r e : Nat) (p : BRow) (z : Sel) (q : BReq) (pq : PReq), ctxOf k i = some c →
    r = (tileIdx k c).getD j c.rows.length → c.batch.rows[r]? = some p → c.work[j]? = some z → p.entry = some e →
    breqOf c.batch e = some q → preqOf c e = some pq →
    (p.uncond = true ∨ rowCause c r ≠ 0 → b = k) ∧
    (∀ (v0 : Nat) (pair : Bool) (ls : List Lane) (fin : List (Nat × Word)), p.uncond = false → rowCause c r = 0 →
      v0 = c.tileT * 1024 + cb * (64 * c.nArr) →
      pair = (match c.batch.rows[r + 1]? with
        | some o => o.uncond
        | none => false) →
      ls = (List.range (min raw.length (bankVocab k c.bank - v0))).map (fun v => laneScore k.stores
        (rowScore k c q pq p (entryAt k e)) (v0 + v) (raw.getD v 0) (if pair then some (odd.getD v 0) else none)) →
      fin = ((List.range ls.length).zip (ls.map (·.x))).filterMap (fun x =>
        if x.2 = negInf then none else some (v0 + x.1, x.2)) →
      ∃ y : Sel, ctxOf b i = some { c with work := c.work.set j y } ∧
        b = { k with ctx0 := b.ctx0, ctx1 := b.ctx1, reg := { k.reg with counts := b.reg.counts, irq := b.reg.irq } } ∧
        countOf 0x008088 b = sat32 (countOf 0x008088 k + (ls.map (·.nan)).sum) ∧
        (c.ex.round = 0 → y.heap = fin.foldl (fun h x => heapTake (hCandK q.host) h x.2 x.1) z.heap ∧
          y.nfin = z.nfin + fin.length ∧ y.fin = z.fin ++ fin ∧
          (y.m, y.s) = foldPair (capCompat c) (z.m, z.s) (blockPair (capCompat c)
            (ls.map (·.x) ++ List.replicate (64 * c.nArr - ls.length) negInf))) ∧
        (c.ex.round ≠ 0 → y = { z with heap := y.heap }) ∧
        (∀ x, c.ex.round ≠ 0 → (c.ex.rescan.find? fun w => (decidedIdx c)[w.1]? = some r) = some x →
          y.heap = foldWin (windowSize c.sharded (bankVocab k c.bank) c.ex.rescan.length) (bankVocBase k c.bank) v0 x
            (ls.map (·.x)) z.heap))

/-- A request's refused or unreadable data removes its rows from the pass (R102, R221, R266, R363): `z` stands where `c` did with
every row of entry `e` removed for this cause. -/
def ReqLost (e cause : Nat) (c z : Ctx) : Prop :=
  z = { c with rows := z.rows } ∧ z.rows.length = c.rows.length ∧
  ∀ (r : Nat) (p : PRow), c.rows[r]? = some p →
    z.rows[r]? = some (if rowEntry c r = some e then lostRow cause p else p)

/-- What a scan from block `z` on, which leaves `y`, does of the implicit CANCELs of every tenant whose first scan in DRAINING it
is (R267 to R269, R282): they are done once; a READY or BLOCKED entry is cancelled, an INFLIGHT or MOVING one holds its CANCEL,
and a spilled one in use begins its end; whatever command was pending is acknowledged. -/
def DrainCancels (z y : Block) : Prop :=
  ∀ n, (tenantAt z n).state = .draining → (tenantAt z n).cancelsDone = false →
    (tenantAt y n).cancelsDone = true ∧
    (∀ (i : Nat) (e g : Entry), e = entryAt z i → g = entryAt y i → e.tenant = n →
      (e.state = .ready ∨ e.state = .blocked → g.ackSeq = hCmdSeq (hostWords z i) ∧
        g.state = if tenPriv z n then .done else .cancelling) ∧
      (e.state = .inflight ∨ e.state = .moving → g.ackSeq = hCmdSeq (hostWords z i) ∧ g.autoCancel = true ∧
        g.state = e.state)) ∧
    (∀ (d : Nat) (e : DirEntry), e = dirAt z d → d < spillN z → spilled e = true → e.tenant = n →
      (dirAt y d).state = .moving ∧ (dirAt y d).ackSeq = bits (dirCmdWord z d) 11 4)

/-- The candidates of a formation in block `k` from the snapshot `f`, in index order: entries that steps 1 and 2 of R76 leave
under consideration, each with its rows and the entry fault found of it (R258, R263). -/
def candidates (k : Block) (f : FormBase) (refine : Bool) (pen : Nat) : List Cand :=
  (f.entries.map (·.1)).filterMap fun i => consider k f refine pen i

/-- What step 4 of R76 admits of the candidates without a fault, taken in rank order (R259, R263, R405, R411). -/
def chosen (k : Block) (f : FormBase) (refine : Bool) (pen : Nat) : Admitted :=
  admitAll f refine (((candidates k f refine pen).filter fun c => c.fault.isNone).foldl (fun l c => rankCand f c l) [])

/-- Batch `n` is the one that block `k` forms from the snapshot `f` (R76): the requests admitted, in index order, their rows laid
out with the padding rows, and the energy predicted of them (R404). -/
def BatchOf (k : Block) (f : FormBase) (refine : Bool) (pen : Nat) (n : Batch) : Prop :=
  ∀ (a : Admitted) (l : List Cand), a = chosen k f refine pen → l = a.cands.foldl (fun l c => byIndex c l) [] →
    n.refine = refine ∧ n.penEpoch = pen ∧ n.classN = a.ns ∧ n.energy = energyOf f a.ns ∧
    n.eraw = energyRaw f.regs a.ns ∧ n.reqs = l.map breqOfCand ∧ n.rows = layout l []

/-- The pages that the requests `cs`, in rank order, take in block `k` from the snapshot `f`, leaving `b` (R22, R262, R263): each
takes what it needs, the lowest numbers that were free at the forming boundary and still are; PAGES rises, and their numbers
are written at PLIST_ADDR + 4i. -/
def PagesTaken (f : FormBase) (cs : List Cand) (k b : Block) : Prop :=
  ∃ ps : Nat → List Nat, b.used = k.used ++ cs.flatMap (fun c => ps c.i) ∧
    ∀ (l m : List Cand) (c : Cand) (held : List Nat), cs = l ++ c :: m →
      held = k.used ++ l.flatMap (fun c => ps c.i) ++ f.used →
      (ps c.i).length = c.need ∧ (ps c.i).Pairwise (· < ·) ∧ (∀ p, p ∈ ps c.i → p ∉ held) ∧
      (∀ p q, q ∈ ps c.i → p < q → p ∈ held ∨ p ∈ ps c.i) ∧
      (entryAt b c.i).pages = (entryAt k c.i).pages ++ ps c.i ∧
      (0 < c.need → ∃ x, x ∈ b.mem.xfers ∧ x.purpose = .pageList c.i ∧ x.write = true ∧
        x.addr = hPlistAddr c.h + 4 * (entryAt k c.i).pages.length ∧ x.len = 4 * c.need ∧
        x.data = (ps c.i).flatMap (leBytes 4) ∧ x.kind = 3 ∧ x.tenant = some c.e.tenant ∧
        x.rights = .tenant c.e.tenant)

/-- A batch's requests without what its launch finds of their deadlines (R260). -/
def ranked (n : Batch) : List BReq := n.reqs.map fun q => { q with late := false }

/-- What the ended transfers `xs` of entry `i`, the first of which is `x`, leave of block `k` as `b` (R255): the state that the
next boundary gives the entry, with its fault code, its pages and its directory entry. An ADMIT takes its history; an IMPORT the
record's block region under the admission of its command (R257, R275); a spill and an EXPORT give up the pages (R270, R274); a
fill takes the image, what the block keeps of the slot staying (R250, R251, R272). -/
def TransferLeaves (i : Nat) (x : Xfer) (xs : List Xfer) (k b : Block) : Prop :=
  ∀ (e g : Entry) (bad : Bool) (h : List Word), e = entryAt k i → g = entryAt b i → bad = xs.any (·.failed) → h = e.adm →
    (∀ j, j ≠ i → entryAt b j = entryAt k j) ∧
    (x.purpose = .hist i ∨ x.purpose = .importRec i → b = { k with entries := b.entries } ∧
      (bad = true → g = { e with arrive := some (.fault, 0x0C) }) ∧
      (∀ bs : List Byte, bad = false → bs = (match xs.find? fun y => y.purpose = .hist i with
          | some y => xferBytes y
          | none => []) →
        ((xs.find? fun y => y.purpose = .importRec i) = none →
          (histBuild h bs = none → g = { e with arrive := some (.fault, 0x08) }) ∧
          (∀ a, histBuild h bs = some a → g = { e with hist := a, arrive := some (.ready, 0) })) ∧
        (∀ (y : Xfer) (r : List Byte), (xs.find? fun y => y.purpose = .importRec i) = some y → r = xferBytes y →
          (importOk h r = false → g = { e with arrive := some (.fault, 0x0A) }) ∧
          (importOk h r = true → histBuild h bs = none → g = { e with arrive := some (.fault, 0x08) }) ∧
          (∀ (a : Hist) (st : EState), importOk h r = true → histBuild h bs = some a →
            st = (match estateOf (numAt r 0x100 4 % 16) with
              | some .blocked => .blocked
              | some .cancelling => .cancelling
              | _ => .ready) →
            g.state = .moving ∧ g.arrive = some (st, 0) ∧ g.hist = a ∧ g.len = numAt r 0x104 4 ∧
            g.new = numAt r 0x108 4 ∧ g.seq = numAt r 0x10C 4 ∧ g.gov = govOf (numAt r 0x110 4) ∧
            g.discarded = numAt r 0x168 4 ∧ g.rejected = numAt r 0x16C 4 ∧ g.mask = maskOf (slice r 0x170 16) ∧
            g.nextSlot = nbits (numAt r 0x100 4) 23 23 ∧ g.lastStep = numAt r 0x158 6 ∧ g.pages = [] ∧
            g.reqId = numAt r 0x164 4 ∧ g.tenant = hTenant h ∧ g.ackSeq = e.ackSeq ∧ g.counter = e.counter ∧
            g.spillIdx = e.spillIdx ∧ (g.cancelDone = true ↔ st = .cancelling))))) ∧
    (∀ d, x.purpose = .spill i d → b = { k with entries := b.entries, dir := b.dir } ∧
      (∀ j, j ≠ d → dirAt b j = dirAt k j) ∧
      (x.failed = true → g = { e with arrive := some (.fault, 0x0C) } ∧ (dirAt b d).state = .free ∧
        (dirAt b d).pages = [] ∧ (dirAt b d).arrive = none) ∧
      (x.failed = false → g = { e with pages := [], arrive := some (.free, 0) } ∧
        dirAt b d = { dirAt k d with ended := true, cancel := e.autoCancel })) ∧
    (∀ d, x.purpose = .fill i d → b = { k with entries := b.entries, dir := b.dir, host := b.host } ∧
      (∀ j, j ≠ d → dirAt b j = dirAt k j) ∧
      dirAt b d = { dirAt k d with word3 := w32 (2 ^ 31 + i), ended := true } ∧
      (x.failed = true → g = { e with arrive := some (.fault, 0x0C) } ∧ b.host = k.host) ∧
      (∀ r : List Byte, x.failed = false → r = xferBytes x →
        b.host = (setHost i (slice r 0 256) k).host ∧ g.state = .moving ∧ g.arrive = some (.ready, 0) ∧
        g.len = numAt r 0x104 4 ∧ g.new = numAt r 0x108 4 ∧ g.seq = numAt r 0x10C 4 ∧ g.gov = govOf (numAt r 0x110 4) ∧
        g.discarded = numAt r 0x168 4 ∧ g.rejected = numAt r 0x16C 4 ∧ g.mask = maskOf (slice r 0x170 16) ∧
        g.nextSlot = nbits (numAt r 0x100 4) 23 23 ∧ g.lastStep = numAt r 0x158 6 ∧ g.reqId = numAt r 0x164 4 ∧
        g.hist = (if (numAt r 0x160 4).testBit 10 then histOfRefine (slice r 512 1536)
          else histOfSeq (slice r 512 1536)) ∧
        g.ackSeq = nbits (numAt r 0x100 4) 11 4 ∧ (g.refP, g.refT, g.depthInit) = (dirAt k d).copies ∧
        g.pages = e.pages ∧ g.pin = e.pin ∧ g.tenant = e.tenant ∧ g.counter = e.counter ∧ g.autoCancel = e.autoCancel)) ∧
    (x.purpose = .exportImg i → b = { k with entries := b.entries, used := b.used } ∧
      (bad = true → g = { e with arrive := some (.fault, 0x0C) } ∧ b.used = k.used) ∧
      (bad = false → g = { e with pages := [], arrive := some (.free, 0) } ∧
        b.used = k.used.filter fun p => !e.pages.contains p))

/-- What the silent part of a step's commit makes of request `q`, whose state in the pass is `p`, in block `k`, leaving `b`
(R86, R88, R268, R287, R290): only a request that is past its CANCELLED record takes part; its run is discarded, charged and
applied with no record, and the entry is DONE at its natural stop; in a fault of its tenant it is stopped. -/
def SilentLeaves (i : Nat) (c : Ctx) (q : BReq) (p : PReq) (k b : Block) : Prop :=
  (p.stage ≠ .silent → b = k) ∧
  (∀ pl : Plan, p.stage = .silent → p.plan = some pl → inFault k q.tenant = true → b = stopReq i q pl k) ∧
  (∀ pl : Plan, p.stage = .silent → p.plan = some pl → inFault k q.tenant = false →
    b = fairCharge c.regs q.tenant q.rows (charge q.tenant pl.runLen (applyCommit c q pl (entryAt k q.entry).seq false
      (strobe (.discard q.tenant pl.runLen) k))) ∧
    (pl.efault = 0 → b.strobes = (strobe (.discard q.tenant pl.runLen) k).strobes ∧
      (tenantAt b q.tenant).balance = satI32 ((tenantAt k q.tenant).balance - pl.runLen) ∧
      (tenantAt b q.tenant).fair = sat64 ((tenantAt k q.tenant).fair + stride c.regs q.tenant * q.rows) ∧
      (entryAt b q.entry).seq = (entryAt k q.entry).seq ∧
      (entryAt b q.entry).nextSlot = (entryAt k q.entry).nextSlot ∧
      (q.prev = .cancelling → pl.remote = false →
        (entryAt b q.entry).discarded = sat32 ((entryAt k q.entry).discarded + pl.runLen) ∧
        (entryAt b q.entry).state = if pl.stop then .done else .cancelling) ∧
      b = { k with
        entries := b.entries, tenants := b.tenants, strobes := b.strobes, reg := { k.reg with irq := b.reg.irq } }))

/-- What a COMMIT record `r` makes of a peer's copy of request `q`, from block `k` to `b` (R321, R322): with OUTCOME 1 the entry
returns to the state before its formation; with OUTCOME 0 it takes point 3 of R85 from the record alone, the history and the mask
state by the record's class words, RUN − T to DISCARDED, and DONE or the entry fault that the flags and STATUS give. -/
def PeerTakes (c : Ctx) (q : BReq) (r : CommitRec) (k b : Block) : Prop :=
  ∀ (e g : Entry) (pl : Plan) (n : Nat), e = entryAt k q.entry → g = entryAt b q.entry → pl = peerPlan k c q r →
    n = (if q.kind = 0 then min r.t r.words.length else 0) →
    (r.code ≠ 0 → g = { e with state := q.prev }) ∧
    (r.code = 0 →
      g.len = (e.len + n) % 2 ^ 32 ∧ g.new = (e.new + n) % 2 ^ 32 ∧ g.seq = r.seq ∧
      g.tail = (if q.kind = 0 then lastN 15 (e.tail ++ (r.words.take r.t).map (·.gv)) else e.tail) ∧
      g.hist = histAfter q pl e.hist ∧ g.mask = maskAfter k c q pl e.mask ∧
      (q.kind = 0 → g.discarded = sat32 (e.discarded + (r.run - n))) ∧
      g.gov = (if remoteRun q r then
        govStep (govTab c.regs (hGovTbl q.host)) (hSpecEn q.host) e.gov q.dstep r.ds r.acc else e.gov) ∧
      (r.stop = true → g.state = .done) ∧
      (r.stop = false → r.fault = true → g.state = .fault ∧ g.efault = if r.status = 0x0B then 0x06 else 0x09) ∧
      (r.stop = false → r.fault = false → g.state = (if q.prev = .cancelling ∨ r.status = 0x04 then .cancelling
        else .ready)) ∧
      (e.cancelDone = false → g.lastStep = c.num ∧ g.nextSlot = 1 - e.nextSlot) ∧
      (e.cancelDone = true → g.lastStep = e.lastStep ∧ g.nextSlot = e.nextSlot))

/-- Parked context `c` has resumed as `d` (R82): at its next tile in its tile phase, with its prologue repeated before its
chunk's first tile, and otherwise where it stood. -/
def Resumed (c d : Ctx) : Prop :=
  d.parked = false ∧ d.parkReq = false ∧ d.parkedByStop = false ∧ d.num = c.num ∧ d.batch = c.batch ∧
  d.chunk = c.chunk ∧
  (c.phase = .tiles → d.phase = .tiles ∧ d.tileT = c.tileT ∧ d.tileG = c.tileG ∧ d.cbNext = 0 ∧ d.halves = [] ∧
    d.rows = c.rows) ∧
  (c.phase = .prologue → (d.phase = .prologue ∨ d.phase = .tiles) ∧ ∀ (r : Nat) (p : PRow), c.rows[r]? = some p →
    ∃ v : PRow, d.rows[r]? = some v ∧ v.removed = p.removed ∧ v.sel = p.sel) ∧
  (c.phase ≠ .tiles → c.phase ≠ .prologue → d.phase = c.phase ∧ d.reqs = c.reqs ∧ d.rows = c.rows)

/-- Context `j` of block `k`, which holds `d`, is parked and may resume once no pass runs and STOP is clear: HALT holds no
sharded one (R82, R335, R409). -/
abbrev Waits (k : Block) (j : Nat) (d : Ctx) : Prop :=
  (j, d) ∈ ctxs k ∧ d.parked = true ∧ (d.sharded && k.rdg.halt) = false

/-- A group fault about the step of context `i` (R333 to R337): HALT is set, the first fault since HALT was clear is
recorded with its shard and step, and a step that had not begun its commit is abandoned. -/
def GroupFaulted (s b : Block) (i : Nat) (c : Ctx) (code shard : Nat) : Prop :=
  b.rdg.halt = true ∧
  (s.rdg.gfault = 0 → b.rdg.gfault = code ∧ b.rdg.gshard = shard ∧ b.rdg.gfstep = c.num) ∧
  (s.rdg.gfault ≠ 0 → b.rdg.gfault = s.rdg.gfault ∧ b.rdg.gshard = s.rdg.gshard ∧ b.rdg.gfstep = s.rdg.gfstep) ∧
  (beforeCommit c = true → ctxOf b i = none ∧ b.step.outcome = .groupAbandoned ∧ b.step.num = c.num) ∧
  b.tenants = s.tenants ∧ b.stores = s.stores ∧ b.host = s.host

/-- The counters of a tenant are within their widths (R417, R418). -/
def CountOk (m : MCount) : Prop :=
  m.commit < 2 ^ 64 ∧ m.discard < 2 ^ 64 ∧ m.scored < 2 ^ 64 ∧ m.draft < 2 ^ 64 ∧ m.nj < 2 ^ 64 ∧ m.unresolved < 2 ^ 64

/-- No counter of `m` is below that of `k`. -/
def CountLe (k m : MCount) : Prop :=
  k.commit ≤ m.commit ∧ k.discard ≤ m.discard ∧ k.scored ≤ m.scored ∧ k.draft ≤ m.draft ∧ k.nj ≤ m.nj ∧
    k.unresolved ≤ m.unresolved

/-- What holds of the meter island in every state a run reaches: its tables in canonical form, every counter within
its width, a key of 16 bytes held in SEALED and none otherwise, bytes of a load held while LOADING alone, and an island
without power as pg_mtr found it. -/
def MeterInv (i : Island) : Prop :=
  twf (fun _ => MCount.zeroed) i.tens = true ∧ twf (fun _ => 0) i.rowTab = true ∧
  (∀ n, CountOk (tenCount i.tens n)) ∧ i.ovhNj < 2 ^ 64 ∧ i.steps < 2 ^ 64 ∧ i.strobeErr < 2 ^ 32 ∧
  i.monTrips < 2 ^ 32 ∧ i.holds < 2 ^ 32 ∧
  (if i.sk = .sealed then i.key.length = 16 else i.key = []) ∧ (i.sk ≠ .loading → i.load = []) ∧
  (i.on = false → i = { Island.fresh with on := false })

/-- The island after a strobe that counts: PRESEAL notes one taken before SEALED was first reached (R430). -/
def counted (i : Island) : Island := { i with preseal := i.preseal || !i.wasSealed }

/-- A tenant's counters changed. -/
def tenMod (i : Island) (n : Nat) (f : MCount → MCount) : Island :=
  { i with tens := tmod (fun _ => MCount.zeroed) i.tens n f }

/-- Command `c` takes the strobes `l` off the channel and leaves the island `j`. -/
def Meters (c : Instr) (s : State) (l : List Strobe) (j : Island) : Prop :=
  exec c s = .next { s with blk := { s.blk with strobes := l }, isl := j }

/-- A value that register `a` can hold: its reset value, or one that its width and range admit, every other register
reading zero (R12, R17). -/
def FitsReg (a : Nat) (w : Word) : Prop :=
  ∀ x, rwDef a = some x → w = x.reset ∨ x.merge (fun _ => 0) w w = (w, false)

/-- Every table of the table stores is in its one form. -/
def StoresInv (t : Stores) : Prop :=
  twf zeroWord t.bitmaps = true ∧ twf zeroWord t.automata = true ∧ twf zeroWord t.bias = true ∧
  twf zeroWord t.penalty = true ∧ twf zeroWord t.prog = true ∧ twf zeroWord t.freq = true ∧
  twf zeroWord t.bank0 = true ∧ twf zeroWord t.bank1 = true ∧ twf zeroWord t.repair = true

/-- The register side: tables in their one form, every register within its width and range. -/
def RegInv (r : RegSide) : Prop :=
  twf resetVal r.written = true ∧ twf resetVal r.inForce = true ∧ twf zeroWord r.flags = true ∧
  twf zeroWord r.irq = true ∧ twf (fun _ => 0) r.counts = true ∧ twf zeroWord r.holds = true ∧
  (∀ a, FitsReg a (tget resetVal r.written a)) ∧ (∀ a, FitsReg a (tget resetVal r.inForce a))

/-- What holds of the block's own state in every state a run reaches: the launch queue within its depth and in order, its
registers and its tables as they may stand. -/
def BlockInv (b : Block) : Prop :=
  b.launchQ.length ≤ 8 ∧ b.launchQ.Pairwise (fun e f => e.count < f.count) ∧ RegInv b.reg ∧ StoresInv b.stores ∧
  twf zeroWord b.host = true ∧ twf zeroWord b.dirHost = true ∧ twf (fun _ => Entry.freed) b.entries = true ∧
  twf (fun _ => DirEntry.freed) b.dir = true ∧ twf (fun _ => 0) b.counters = true ∧
  twf (fun _ => Tenant.cold) b.tenants = true ∧ twf (fun _ => []) b.mirror.tens = true

/-- An access as it may stand on its port (R40, R360). -/
def AccessOk (m : MemSide) (a : Access) : Prop :=
  a.port = a.phys / 256 % 4 ∧ a.phys % 64 = 0 ∧ 1 ≤ a.beats ∧ a.phys % 256 + 64 * a.beats ≤ 256 ∧
  (a.write = true → a.beats = 1) ∧ a.tag < (if a.write then 32 else 64) ∧ a.xfer < m.nextId ∧
  (∀ x, x ∈ m.xfers → x.id = a.xfer → x.write = a.write ∧ (x.addr / 64 + a.off) * 64 % 256 = a.phys % 256)

/-- What holds of the memory ports in every state a run reaches: every access in order, no tag twice in one direction of a
port, what is to be issued again as it was, and every cached translation that of a page. -/
def PortInv (m : MemSide) : Prop :=
  (∀ a, a ∈ m.access → AccessOk m a) ∧
  m.access.Pairwise (fun a b => ¬(a.port = b.port ∧ a.tag = b.tag ∧ a.write = b.write)) ∧
  m.xfers.Pairwise (fun x y => x.id ≠ y.id) ∧
  (∀ x, x ∈ m.xfers → x.id < m.nextId ∧ (x.write = true → x.redo = []) ∧
    ∀ p, p ∈ x.redo → 1 ≤ p.2.1 ∧ (x.addr / 64 + p.1) % 4 + p.2.1 ≤ 4) ∧
  (∀ c, c ∈ m.cache → c.phys % 4096 = 0 ∧ (c.shift = 12 ∨ c.shift = 21))

end Sys2Proof.Claims
end

