-- ==== Sys2Proof/Certificates/Slice0/Obligations.lean ====
section
/-! DEFINITION. The statements about the model, one `def Obligations.<Name> : Prop` each. -/

open Sys2Proof Sys2Proof.Machine Sys2Proof.Claims

/-! ## The queue, test mode, reset -/

/-- A step takes the command at the front of the queue and is that command's meaning on the queue's rest. On an empty
queue the block idles, which is the model's choice (log entry 5). -/
def Obligations.StepRunsFront : Prop :=
  (∀ (c : Instr) (rest : List Instr) (s : State),
    step { s with pending := c :: rest } = exec c { s with pending := rest }) ∧
  (∀ s : State, s.pending = [] → step s = .next s)

/-- Every command but those of the meter island answers, outside test mode, a next state that differs in the block
alone: the meter island and the queue are as before (R415, R416). With test_mode high every one of them stops: R60 says
only that the block's behaviour is undefined there, and the stop is the model's choice (log entry 12). -/
def Obligations.BlockCommandOutcome : Prop :=
  ∀ (c : Instr) (s : State), ofIsland c = false →
    (s.blk.testMode = false → ∃ b : Block, exec c s = .next { s with blk := b }) ∧
    (s.blk.testMode = true → exec c s = .fault .testModeHigh)

/-- What each command of the meter island can change (R415, R416, R419): it answers a next state in every state. A strobe
command without its strobe at the head of the channel changes nothing; with it, it takes that strobe off the channel and
changes the island's counters alone, neither key nor calibration nor record. The pins, the seal key and the records change
of the block only pgMtr, testMode, the mirror, the port outputs and GLB's interrupt, and of the island what each names. The
channels, and that a strobe command without its strobe does nothing, are the model's choice (log entries 69 and 6). -/
def Obligations.IslandCommandFrames : Prop :=
  ∀ s : State,
    (∀ (c : Instr) (k : Nat) (f : Strobe → Bool), islandStrobe c = some (k, f) →
      (takeStrobe k f s.blk.strobes = none → exec c s = .next s) ∧
      (∀ e l, takeStrobe k f s.blk.strobes = some (e, l) → ∃ j : Island, Meters c s l j ∧ j = { s.isl with
        tens := j.tens, ovhNj := j.ovhNj, steps := j.steps, strobeErr := j.strobeErr, monTrips := j.monTrips
        holds := j.holds, rowTab := j.rowTab, count := j.count, period := j.period, countNew := j.countNew
        triggers := j.triggers, preseal := j.preseal, resetSeen := j.resetSeen, faultSeen := j.faultSeen })) ∧
    (∃ t : State, exec .pgMtrFall s = .next t ∧ t = { s with
      isl := t.isl
      blk := { s.blk with
        strobes := t.blk.strobes, mirror := t.blk.mirror, pwr := { s.blk.pwr with pgMtr := false }
        reg := { s.blk.reg with irq := t.blk.reg.irq } } }) ∧
    (∃ t : State, exec .pgMtrRise s = .next t ∧ t = { s with
      isl := t.isl
      blk := { s.blk with mirror := t.blk.mirror, pwr := { s.blk.pwr with pgMtr := true } } }) ∧
    (∃ t : State, exec .testModeRise s = .next t ∧ t = { s with
      isl := { s.isl with
        sk := t.isl.sk, key := t.isl.key, load := t.isl.load, calDigest := t.isl.calDigest, sending := t.isl.sending }
      blk := { s.blk with
        testMode := true, mirror := { s.blk.mirror with sk := t.blk.mirror.sk, live := t.blk.mirror.live } } }) ∧
    (∀ (b : Byte) (last : Bool), ∃ t : State, exec (.sealKeyByte b last) s = .next t ∧ t = { s with
      isl := { s.isl with
        sk := t.isl.sk, wasSealed := t.isl.wasSealed, key := t.isl.key, load := t.isl.load, cal := t.isl.cal
        calDigest := t.isl.calDigest }
      blk := { s.blk with mirror := { s.blk.mirror with sk := t.blk.mirror.sk, live := t.blk.mirror.live } } }) ∧
    (∃ t : State, exec .recMaxExpiry s = .next t ∧ t = { s with
      isl := { s.isl with triggers := t.isl.triggers } }) ∧
    (∃ t : State, exec .cairnRecord s = .next t ∧ t = { s with
      isl := { s.isl with
        sending := t.isl.sending, seq := t.isl.seq, prevPeriod := t.isl.prevPeriod, countNew := t.isl.countNew
        triggers := t.isl.triggers, resetSeen := t.isl.resetSeen, faultSeen := t.isl.faultSeen, snap := t.isl.snap } }) ∧
    (∃ t : State, exec .cairnRecordEnd s = .next t ∧ t = { s with
      isl := { s.isl with sending := none }
      blk := { s.blk with out := t.blk.out, mirror := { t.blk.mirror with sk := s.blk.mirror.sk, live := s.blk.mirror.live } } })

/-! ## The register port -/

/-- Each row that writes one register is REGISTER_WRITE at that register's address, whatever its data and parity. -/
def Obligations.PortRowIsWrite : Prop :=
  ∀ (c : Instr) (a : Nat) (d : Word) (p : BitVec 4) (s : State), portRow c = some (a, d, p) → wellFormed c = true →
    exec c s = exec (.registerWrite (BitVec.ofNat 24 a) d p) s

/-- A request in error is answered ERROR and changes nothing but what DBG records of it while it has its clock (R34, R37,
R467): a write of a page or of a table window, and a read. It is in error where it is misaligned (cause 1), where its
address lies in no page or window (2), where its page or window is gated (3, R396, R469), and, a write, where the parity of its
data fails (4); which cause is recorded where two hold is the model's reading (log entry 15). A page of an array that the grade
lacks answers OKAY and ignores the write (R464), of wrong parity too, which is the model's reading (log entry 89). -/
def Obligations.ParityErrorRefused : Prop :=
  ∀ (s : State) (a : BitVec 24), FrontOpen s.blk →
    (∀ (d : Word) (p : BitVec 4) (c : Instr) (cause : Nat), c = .registerWrite a d p ∨ c = .tableWindowWrite a d p →
      InError s.blk a.toNat (decide (p.toNat ≠ parBits 4 d.toNat)) cause →
      ∃ b : Block, Does c s b ∧ ErrorAnswered s.blk b a.toNat true cause) ∧
    (∀ cause : Nat, InError s.blk a.toNat false cause →
      ∃ b : Block, exec (.latchingRead a) s = .next { s with blk := b } ∧ ErrorAnswered s.blk b a.toNat false cause) ∧
    (∀ (d : Word) (p : BitVec 4) (g : Page), a.toNat < 0x500000 → a.toNat % 4 = 0 → pageAt (a.toNat / 0x1000) = some g →
      absentAry s.blk g = true → Does (.registerWrite a d p) s (okay s.blk))

/-- HOLD, with no effect: while the front end answers alone (no clock judged usable, CLOCK_HOLD, a block soft reset) for every
write and every read but that of GLB.STATUS, which returns OKAY with the status as it stands (R39, R385, R435), a misaligned
access too, which is the model's reading (log entry 122); and while the SRAM clear runs for every aligned access to a table
window (R437), whatever its gate and its parity (the order of the two is the model's reading, log entry 15). -/
def Obligations.FrontEndHolds : Prop :=
  ∀ (s : State) (a : BitVec 24) (d : Word) (p : BitVec 4), s.blk.testMode = false → s.blk.pwr.rstLow = false →
    (frontOnly s.blk = true →
      Does (.registerWrite a d p) s { s.blk with out := s.blk.out ++ [rspOut 2 0] } ∧
      Does (.tableWindowWrite a d p) s { s.blk with out := s.blk.out ++ [rspOut 2 0] } ∧
      (a.toNat ≠ 0x00C → exec (.latchingRead a) s =
        .next { s with blk := { s.blk with out := s.blk.out ++ [rspOut 2 0] } }) ∧
      (a.toNat = 0x00C → exec (.latchingRead a) s = .next { s with blk := { s.blk with
        out := s.blk.out ++ [rspOut 0 (flagWord .glb s.blk ||| fields [(b2n s.blk.fault, 0),
          (b2n (s.blk.pwr.src = .hold), 1), (srcCode s.blk.pwr.src, 2), (b2n !s.blk.pwr.pgMtr, 4), (b2n s.blk.sramInit, 5),
          (b2n s.blk.resetting, 6), (b2n s.blk.launched, 7)])] } })) ∧
    (∀ w : Win × Nat, frontOnly s.blk = false → s.blk.sramInit = true →
      a.toNat % 4 = 0 → 0x500000 ≤ a.toNat → winAt (apertureSel s.blk) a.toNat = some w →
      Does (.tableWindowWrite a d p) s { s.blk with out := s.blk.out ++ [rspOut 2 0] } ∧
      exec (.latchingRead a) s = .next { s with blk := { s.blk with out := s.blk.out ++ [rspOut 2 0] } })

/-- Once the clear has ended and until the repair map is applied, an access to any other window than the repair map's, a
write or a read, is answered ERROR with cause 5, and no store changes (R438). -/
def Obligations.WindowClosedBeforeRepair : Prop :=
  ∀ (s : State) (a : BitVec 24) (w : Win × Nat),
    s.blk.testMode = false → s.blk.pwr.rstLow = false → frontOnly s.blk = false → s.blk.sramInit = false →
    s.blk.cfg.repairDone = false → (∀ g, winOwner w.1 = some g → gatedOut s.blk g = false) →
    a.toNat % 4 = 0 → winAt (apertureSel s.blk) a.toNat = some w → w.1 ≠ .repair → 0x500000 ≤ a.toNat →
    (∀ (d : Word) (p : BitVec 4), p.toNat = parBits 4 d.toNat → Does (.tableWindowWrite a d p) s
      { dbgRecord a.toNat true 5 s.blk with out := s.blk.out ++ [rspOut 1 0] }) ∧
    exec (.latchingRead a) s = .next { s with blk :=
      { dbgRecord a.toNat false 5 s.blk with out := s.blk.out ++ [rspOut 1 0] } }

/-- Register writes (R12, R15, R17, R36, R462). An RW or RW-step register takes the fields in range and a read shows them,
an RW-step register included; the value in force is untouched, and LaunchStarts says when it follows. CLK.DIV also moves the
state between RUN and THROTTLE (R398), an accepted COSTc restarts its class (R407), SPILL_N is refused while it would drop an
entry that is not FREE (R277), and a CTR_SEL out of the range in force is flagged (R296). GLB.CTRL is taken with FORCE_FAULT
at 0, CorrAndForce having it at 1; STATE_REQ and XLT.INVAL stand in PowerRequests and FaultQueueAndInval. A write to STATUS
or IRQ_STAT clears exactly the W1C bits written with 1; one to a read-only or reserved register is ignored with OKAY. That a
register read through a hold takes a write, and shows its hold (log entry 14), that SPILL_N is held against the index of an
entry not FREE (17), that a COSTc write of the same value restarts its class too (79), and that a ring's BASE is checked against
its LOG2 on a write of BASE alone (38), are the model's reading. -/
def Obligations.RegisterWriteTakes : Prop :=
  ∀ (s : State) (a : BitVec 24) (g : Page) (d : Word) (p : BitVec 4) (off : Nat), a.toNat < 0x500000 → a.toNat % 4 = 0 →
    pageAt (a.toNat / 0x1000) = some g → absentAry s.blk g = false → off = a.toNat % 0x1000 →
    (∀ x : RwDef, rwDef a.toNat = some x → Accepts s.blk g d p →
      (plainReg g off = true ∨ (g = .glb ∧ off = 0x008 ∧ bit d 1 = false) →
        ∃ b : Block, Takes s.blk g a.toNat x d b ∧ Does (.registerWrite a d p) s (okay b)) ∧
      (g = .clk → off = 0x080 → ∃ b t : Block, Takes s.blk g a.toNat x d b ∧ Does (.registerWrite a d p) s (okay t) ∧
        t = { b with pwr := { b.pwr with state := t.pwr.state }, reg := { b.reg with irq := t.reg.irq } } ∧
        (b.pwr.state = .run ∨ b.pwr.state = .throttle → t.pwr.state =
          if minDiv b < b.pwr.thLevel ∨ minDiv b < b.pwr.plLevel ∨ b.pwr.stop = true then .throttle else .run) ∧
        (b.pwr.state ≠ .run → b.pwr.state ≠ .throttle → t = b) ∧
        (b.pwr.state = .run → t.pwr.state = .throttle → bit (irqStat .pwr t) 1 = true)) ∧
      (∀ c, c < 4 → g = .pwr → off = 0x08C + 4 * c → ∃ b : Block, Takes s.blk g a.toNat x d b ∧
        (d = 0 → Does (.registerWrite a d p) s (okay b)) ∧
        (d ≠ 0 → Does (.registerWrite a d p) s (okay { b with pwr := { b.pwr with
          corr := setNth b.pwr.corr c 0x1000, corrAcc := setNth b.pwr.corrAcc c 0
          corrCnt := setNth b.pwr.corrCnt c 0 } }))) ∧
      (g = .req → off = 0x0B4 →
        ((∃ e, e ∈ s.blk.dir ∧ e.2.state ≠ .free ∧ bits d 14 0 ≤ e.1) →
          Does (.registerWrite a d p) s (okay (badParam .req s.blk))) ∧
        ((∀ e, e ∈ s.blk.dir → e.2.state ≠ .free → e.1 < bits d 14 0) →
          ∃ b : Block, Takes s.blk g a.toNat x d b ∧ Does (.registerWrite a d p) s (okay b))) ∧
      (∀ n first, g = .ten n → off = 0x094 → first = bits (rf s.blk (tpolReg n 0x10)) 15 0 →
        ∃ b : Block, Takes s.blk g a.toNat x d b ∧
        (first ≤ bits d 15 0 ∧ bits d 15 0 < first + bits (rf s.blk (tpolReg n 0x14)) 16 0 →
          Does (.registerWrite a d p) s (okay b)) ∧
        (bits d 15 0 < first ∨ first + bits (rf s.blk (tpolReg n 0x14)) 16 0 ≤ bits d 15 0 →
          Does (.registerWrite a d p) s (okay (badParam g b))))) ∧
    (Accepts s.blk g d p → off = 0x00C → ∃ b : Block, Does (.registerWrite a d p) s (okay b) ∧
      flagWord g b = flagWord g s.blk &&& ~~~d ∧ (∀ q, pageBase q ≠ pageBase g → flagWord q b = flagWord q s.blk) ∧
      b = { s.blk with reg := { s.blk.reg with flags := b.reg.flags } }) ∧
    (Accepts s.blk g d p → off = 0x018 → ∃ b : Block, Does (.registerWrite a d p) s (okay b) ∧
      irqStat g b = irqStat g s.blk &&& ~~~d ∧ (∀ q, pageBase q ≠ pageBase g → irqStat q b = irqStat q s.blk) ∧
      b = { s.blk with reg := { s.blk.reg with irq := b.reg.irq } }) ∧
    (Accepts s.blk g d p → inert g off = true → Does (.registerWrite a d p) s (okay s.blk)) ∧
    (PortOpen s.blk g → (rwDef a.toNat).isSome = true → plainReg g off = true → isLatched a.toNat = false → ∃ b : Block,
      exec (.latchingRead a) s = .next { s with blk := b } ∧
      b.out = s.blk.out ++ [rspOut 0 (wr s.blk a.toNat)] ∧
      b = { s.blk with out := b.out, reg := { s.blk.reg with holds := b.reg.holds } })

/-- Latching reads (R463): a read of a register copies every register that it latches, as it stands then, into their holds;
a later read of one of them shows its hold, whatever the register has become. Among them are the upper halves of MER.COUNT
(R49), PWR.ACC, the done counter, the oldest report of XLT.FQ, GFAULT_STEP and LAST_COMMIT of RDG, the mirrored meter record
and a tenant's FAIR. CTR_VAL_LO and CTR_VAL_HI read 0 while the index lies outside the range in force (R296). That a hold
reads zero before its first latch, and that CTR_VAL_HI reads 0 then whatever it holds, are the model's reading (log entries
14 and 129). A register that no read latches shows its value as it stands: among the read-only ones the version, status and
fault of GLB, the queue depth, cycles, temperatures, a tenant's balance and entries (R12, R461, R462), and the free pages,
none from a reset to the first boundary (R434, log entry 172). A table window shows its word, in a configuration bank zero
at and above the LENGTH of its image (R445, log entry 174), once the SRAM is clear and the window is open and its page not
gated (R271, R280, R438, R447, R469). -/
def Obligations.CountReadLatches : Prop :=
  (∀ (s : State) (a c : BitVec 24) (g : Page), a.toNat < 0x500000 → a.toNat % 4 = 0 →
    pageAt (a.toNat / 0x1000) = some g → c.toNat ∈ latched a.toNat → PortOpen s.blk g →
    ∃ b : Block, exec (.latchingRead a) s = .next { s with blk := b } ∧
      b.out = s.blk.out ++ [rspOut 0 (if isLatched a.toNat then tget zeroWord s.blk.reg.holds a.toNat
        else liveReg s.blk g (a.toNat % 0x1000))] ∧
      b = { s.blk with out := b.out, reg := { s.blk.reg with holds := b.reg.holds } } ∧
      (∀ k, k ∉ latched a.toNat → tget zeroWord b.reg.holds k = tget zeroWord s.blk.reg.holds k) ∧
      ∀ t : Block, PortOpen t g → t.reg.holds = b.reg.holds →
        (∀ n, g = .ten n → c.toNat % 0x1000 = 0x09C → ctrInRange t n = true) → exec (.latchingRead c) { s with blk := t } =
        .next { s with blk := { t with out := t.out ++ [rspOut 0 (liveReg s.blk g (c.toNat % 0x1000))] } }) ∧
  (∀ (s : State) (a : BitVec 24) (n off : Nat), n < 1024 → off = 0x098 ∨ off = 0x09C → a.toNat = 0x100000 + n * 0x1000 + off →
    PortOpen s.blk (.ten n) → ctrInRange s.blk n = false → ∃ b : Block, exec (.latchingRead a) s = .next { s with blk := b } ∧
      b.out = s.blk.out ++ [rspOut 0 0] ∧ b = { s.blk with out := b.out, reg := { s.blk.reg with holds := b.reg.holds } }) ∧
  (∀ (a : Nat) (g : Page) (v : Block → Word), (a, g, v) ∈ [
      (0x00409C, Page.mer, fun k : Block => w32 (k.count.getD 0 / 2 ^ 32)),
      (0x0020B0, .pwr, fun k => hiWord k.pwr.acc), (0x0050B4, .sch, fun k => w32 (k.step.doneNum / 2 ^ 32)),
      (0x0050C4, .sch, fun k => k.step.digest),
      (0x00B094, .xlt, fun k => match k.mem.fqueue.head? with
        | some r => w32 (r.addr / 2 ^ 32)
        | none => 0),
      (0x00C0AC, .rdg, fun k => w32 (k.rdg.gfstep / 2 ^ 32)), (0x00C0B4, .rdg, fun k => w32 (k.rdg.lastCommit / 2 ^ 32)),
      (0x00D084, .mtr, fun k => w32 (numAt k.mirror.header 4 4)),
      (0x101088, .ten 1, fun k => w32 ((tenantAt k 1).fair / 2 ^ 32))] →
    pageAt (a / 0x1000) = some g ∧ isLatched a = true ∧ ∀ k : Block, liveReg k g (a % 0x1000) = v k) ∧
  (∀ (s : State) (a : BitVec 24) (g : Page), a.toNat < 0x500000 → a.toNat % 4 = 0 →
    pageAt (a.toNat / 0x1000) = some g → PortOpen s.blk g → absentAry s.blk g = false → isLatched a.toNat = false →
    ∃ b : Block, exec (.latchingRead a) s = .next { s with blk := b } ∧
      b.out = s.blk.out ++ [rspOut 0 (liveReg s.blk g (a.toNat % 0x1000))] ∧
      b = { s.blk with out := b.out, reg := { s.blk.reg with holds := b.reg.holds } }) ∧
  (∀ (a : Nat) (g : Page) (v : Block → Word), (a, g, v) ∈ [
      (0x000004, Page.glb, fun k : Block => if k.grade = .x4 then 0x04020140 else 0x04020120),
      (0x00000C, .glb, fun k => flagWord .glb k ||| statusRo k .glb), (0x00001C, .glb, fun k => w32 k.faultCode),
      (0x001084, .clk, fun k => w32 k.pwr.dawnCount), (0x001088, .clk, fun k => w32 k.pwr.monCause),
      (0x0020BC, .pwr, fun k => fields [(k.pwr.tempHot, 0), (k.pwr.tempSensor, 8)]),
      (0x0030B4, .cfg, fun k => w32 k.cfg.loadDone), (0x00408C, .mer, fun k => w32 k.launchQ.length),
      (0x005094, .sch, fun k => w32 k.step.pred), (0x005098, .sch, fun k => w32 k.step.cycles),
      (0x006088, .req, fun k => w32 (if k.launched then bits (rf k 0x006080) 20 0 - k.used.length else 0)),
      (0x0060B8, .req, fun k => w32 k.batchSeq), (0x00B088, .xlt, fun k => w32 k.mem.fqueue.length),
      (0x00C0A4, .rdg, fun k => fields [(k.rdg.gfault, 0), (k.rdg.gshard, 8)]),
      (0x101080, .ten 1, fun k => BitVec.ofInt 32 (tenantAt k 1).balance),
      (0x10108C, .ten 1, fun k => w32 (tenantAt k 1).faultMore),
      (0x1010A0, .ten 1, fun k => w32 (((usedEntries k).filter fun i => (entryAt k i).tenant = 1).length +
        (k.dir.filter fun d => d.2.tenant = 1 && d.2.state ≠ .free).length))] →
    pageAt (a / 0x1000) = some g ∧ isLatched a = false ∧ ∀ k : Block, liveReg k g (a % 0x1000) = v k) ∧
  (∀ (s : State) (a : BitVec 24) (v : Win) (off : Nat), FrontOpen s.blk → s.blk.sramInit = false →
    s.blk.cfg.repairDone = true ∨ v = .repair → (∀ g, winOwner v = some g → gatedOut s.blk g = false) →
    a.toNat % 4 = 0 → 0x500000 ≤ a.toNat → winAt (apertureSel s.blk) a.toNat = some (v, off) →
    ∃ w : Word, WindowShows s.blk v off w ∧
      exec (.latchingRead a) s = .next { s with blk := { s.blk with out := s.blk.out ++ [rspOut 0 w] } })

/-- Writes of the table windows (R12, R250, R251, R271, R438, R447, R452, R469 to R471), once the SRAM clear has ended: of
every window once the repair map is applied, and of the repair map before that too. A word of the request table lands in the
host region of its entry, its reserved bits as zero: words 0x09C to 0x0FC have no other; one written to the block region is
ignored with OKAY and sets REQ.STATUS.LOCKED_WRITE. Word 0 of a directory entry in use lands, any other sets that flag, and
an entry not in use ignores all four. A word of a bank lands in the idle one while neither locked. A word of a switched
store lands in its idle epoch, or sets the flag of its page while that is locked. A word of the repair map lands. A register
of a policy record takes its value, and marks a batch formed in advance, or is ignored whole with the tenant's POLICY_BAD
where it is out of range (R278, R279); that such a word marks nothing is the model's choice (log entry 25). A word of a
table store keeps the places that are not reserved, the others reading zero (R12, R139, R141, R148, R160, R166, R171); which
places of a word are reserved in that sense is the model's reading (log entry 80). -/
def Obligations.TableWindowWrites : Prop :=
  ∀ (s : State) (a : BitVec 24) (d : Word) (p : BitVec 4) (off : Nat), FrontOpen s.blk → s.blk.sramInit = false →
    s.blk.cfg.repairDone = true ∨ winAt (apertureSel s.blk) a.toNat = some (.repair, off) →
    p.toNat = parBits 4 d.toNat → a.toNat % 4 = 0 → 0x500000 ≤ a.toNat →
    (winAt (apertureSel s.blk) a.toNat = some (.reqTable, off) →
      (off % 512 < 0x09C → Does (.tableWindowWrite a d p) s (okay { s.blk with
        host := tset zeroWord s.blk.host (off / 4) (d &&& hostMask (off % 512 / 4)) })) ∧
      (0x09C ≤ off % 512 → off % 512 < 256 → Does (.tableWindowWrite a d p) s (okay { s.blk with
        host := tset zeroWord s.blk.host (off / 4) 0 })) ∧
      (256 ≤ off % 512 → Does (.tableWindowWrite a d p) s (okay (flagRaise .req 0 s.blk)))) ∧
    (winAt (apertureSel s.blk) a.toNat = some (.dir, off) →
      (spillN s.blk ≤ off / 16 → Does (.tableWindowWrite a d p) s (okay s.blk)) ∧
      (off / 16 < spillN s.blk → off % 16 = 0 → Does (.tableWindowWrite a d p) s (okay { s.blk with
        dirHost := tset zeroWord s.blk.dirHost (off / 16) (d &&& 0xFFF) })) ∧
      (off / 16 < spillN s.blk → off % 16 ≠ 0 → Does (.tableWindowWrite a d p) s (okay (flagRaise .req 0 s.blk)))) ∧
    (winAt (apertureSel s.blk) a.toNat = some (.config, off) →
      (bankLocked s.blk (off / 0x100000) = true → Does (.tableWindowWrite a d p) s (okay (flagRaise .cfg 11 s.blk))) ∧
      (bankLocked s.blk (off / 0x100000) = false → s.blk.cfg.active < 2 →
        ∃ b : Block, Does (.tableWindowWrite a d p) s (okay b) ∧ b.cfg = { s.blk.cfg with idleValid := false } ∧
          bankWord b (1 - s.blk.cfg.active) (off % 0x100000) = d ∧
          bankWords b s.blk.cfg.active = bankWords s.blk s.blk.cfg.active ∧
          b = { s.blk with
            cfg := b.cfg
            stores := { s.blk.stores with bank0 := b.stores.bank0, bank1 := b.stores.bank1 } })) ∧
    (winAt (apertureSel s.blk) a.toNat = some (.repair, off) → Does (.tableWindowWrite a d p) s (okay { s.blk with
      stores := { s.blk.stores with repair := tset zeroWord s.blk.stores.repair (off / 4) d } })) ∧
    (winAt (apertureSel s.blk) a.toNat = some (.policy, off) → off % 0x40 ≠ 0x0C →
      ∀ (x : RwDef) (r : Word × Bool), rwDef (0xFC0000 + off) = some x →
      r = x.merge (wr s.blk) (wr s.blk (0xFC0000 + off)) d →
      ∃ b : Block, Does (.tableWindowWrite a d p) s (okay b) ∧
        (∀ k, wr b k = if k = 0xFC0000 + off ∧ r.2 = false then r.1 else wr s.blk k) ∧
        b = { s.blk with reg := { s.blk.reg with
          written := b.reg.written, flags := b.reg.flags, stale := s.blk.reg.stale || !r.2 } } ∧
        b.reg.flags = (if r.2 then (flagRaise (.ten (off / 0x40)) 4 s.blk).reg.flags else s.blk.reg.flags)) ∧
    (∀ (v : Win) (k size : Nat) (g : Page), (v, k, size, g) ∈ [(Win.bitmaps, 0, 0x200000, Page.sel),
        (.automata, 1, 0x80000, .sel), (.bias, 2, 0x80000, .sel), (.penalty, 3, 0x2000, .sel),
        (.prog, 4, 0x20000, .sfu), (.freq, 5, 0x20000, .sfu)] →
      winAt (apertureSel s.blk) a.toNat = some (v, off) → gatedOut s.blk g = false →
      (epochLocked s.blk k (off / size) = true →
        Does (.tableWindowWrite a d p) s (okay (flagRaise g (if g = .sfu then 1 else 0) s.blk))) ∧
      (epochLocked s.blk k (off / size) = false → ∃ b : Block, Does (.tableWindowWrite a d p) s (okay b) ∧
        winRead v off b = d &&& placeMask v off d ∧ b = { s.blk with stores := b.stores } ∧
        (∀ (u : Win) (o : Nat), u ≠ v ∨ o / 4 ≠ off / 4 → winRead u o b = winRead u o s.blk)))

/-! ## Rows that write one register -/

/-- A push into a queue with room, of a valid mode, with a count above the newest entry's and above the current
count, is queued with MODE and PREEMPT; any other is dropped: MER.STATUS.BAD_LAUNCH and its interrupt rise and nothing
else changes (R63, R64). -/
def Obligations.LaunchPush : Prop :=
  ∀ (s : State) (d : Word) (p : BitVec 4), Accepts s.blk .mer d p → bit d 0 = true →
    (s.blk.launchQ.length < 8 → bits d 2 1 < 2 →
      (∀ e, s.blk.launchQ.getLast? = some e → e.count < stagedCount s.blk) →
      (∀ n, s.blk.count = some n → n < stagedCount s.blk) →
      Does (.launchPush d p) s (okay { s.blk with
        launchQ := s.blk.launchQ ++ [⟨stagedCount s.blk, bits d 2 1 = 1, bit d 3, none⟩] })) ∧
    ((8 ≤ s.blk.launchQ.length ∨ 2 ≤ bits d 2 1 ∨
        (∃ e, s.blk.launchQ.getLast? = some e ∧ stagedCount s.blk ≤ e.count) ∨
        (∃ n, s.blk.count = some n ∧ stagedCount s.blk ≤ n)) →
      Does (.launchPush d p) s (okay (irqRaise .mer 0 (flagRaise .mer 0 s.blk))))

/-- Commands to a tenant. An accepted GRANT adds its signed value to the pending sum, saturating at the limits of i32, and
marks a batch formed in advance (R75, R280). FAULT_CLEAR and SOFT_RESET of a tenant page are taken for the next boundary:
nothing of the tenant changes yet but the request (R299, R301); that the faults since a FAULT_CLEAR are counted afresh is
the model's choice (log entry 24). -/
def Obligations.TenantRequests : Prop :=
  (∀ (s : State) (n : BitVec 10) (d : Word) (p : BitVec 4), WindowOpen s.blk → p.toNat = parBits 4 d.toNat →
    Does (.grant n d p) s (okay { s.blk with
      reg := { s.blk.reg with stale := true }
      tenants := tset (fun _ => Tenant.cold) s.blk.tenants n.toNat
        { tenantAt s.blk n.toNat with grant := satI32 ((tenantAt s.blk n.toNat).grant + d.toInt) } })) ∧
  (∀ (s : State) (n : BitVec 10) (d : Word) (p : BitVec 4), Accepts s.blk (.ten n.toNat) d p → bit d 0 = true →
    Does (.faultClear n d p) s (okay { s.blk with
      tenants := tset (fun _ => Tenant.cold) s.blk.tenants n.toNat
        { tenantAt s.blk n.toNat with clearPend := true, sinceCode := 0, sinceAddr := 0, sinceN := 0 } }) ∧
    Does (.tenantReset n d p) s (okay { s.blk with
      tenants := tset (fun _ => Tenant.cold) s.blk.tenants n.toNat { tenantAt s.blk n.toNat with resetPend := true } }))

/-- The table switches begin. SFU.TBL_CTRL: each store named and neither pending nor under check has its REFUSED cleared
and its check begun; one that is pending or under check is left as it is (R145). SEL.TBL_CTRL: a request none of whose
stores is pending or under check clears the REFUSED bits and joins the checks; any other is ignored as a whole (R179);
its four rows are one write. -/
def Obligations.TableSwitchesBegin : Prop :=
  (∀ (s : State) (d : Word) (p : BitVec 4), Accepts s.blk .sfu d p →
    (bit d 0 = true → bit d 1 = false →
      (StoreIdle s.blk 4 → Does (.progSwitch d p) s (okay { s.blk with
        epochs := { s.blk.epochs with refused := setNth s.blk.epochs.refused 4 false, progCheck := true } })) ∧
      (¬ StoreIdle s.blk 4 → Does (.progSwitch d p) s (okay s.blk))) ∧
    (bit d 1 = true → bit d 0 = false →
      (StoreIdle s.blk 5 → Does (.freqSwitch d p) s (okay { s.blk with
        epochs := { s.blk.epochs with refused := setNth s.blk.epochs.refused 5 false, freqCheck := true } })) ∧
      (¬ StoreIdle s.blk 5 → Does (.freqSwitch d p) s (okay s.blk))) ∧
    (bit d 0 = true → bit d 1 = true → StoreIdle s.blk 4 → StoreIdle s.blk 5 →
      Does (.progSwitch d p) s (okay { s.blk with
        epochs := { s.blk.epochs with
          refused := setNth (setNth s.blk.epochs.refused 4 false) 5 false, progCheck := true, freqCheck := true } }))) ∧
  (∀ (s : State) (d : Word) (p : BitVec 4) (c : Instr),
    c ∈ [Instr.maskSwitch d p, .autoSwitch d p, .biasSwitch d p, .penSwitch d p] → wellFormed c = true →
    Accepts s.blk .sel d p →
    ((∀ k, k < 4 → bit d k = true → StoreIdle s.blk k) → Does c s (okay { s.blk with
      epochs := { s.blk.epochs with
        refused := s.blk.epochs.refused.mapIdx fun i b => decide (4 ≤ i) && b
        selChecks := s.blk.epochs.selChecks ++ [[bit d 0, bit d 1, bit d 2, bit d 3]] } })) ∧
    ((∃ k, k < 4 ∧ bit d k = true ∧ ¬ StoreIdle s.blk k) → Does c s (okay s.blk)))

/-- CFG.CTRL, one bit at a time (R442, R448, R449, R450, R453): SWITCH begins the check, ROLLBACK its preparation or
is refused with NO_PREVIOUS, CONFIRM closes the watchdog window, REPAIR_APPLY begins, and LOAD_GO takes source,
destination, length and aperture and asks for the transfer, or sets BAD_PARAM. That a write with several bits set is its
single-bit writes in order, from bit 0, is the model's choice (log entry 104). -/
def Obligations.ConfigCommands : Prop :=
  ∀ (s : State) (d : Word) (p : BitVec 4), Accepts s.blk .cfg d p →
    (bits d 4 0 = 1 → BanksIdle s.blk → Does (.switch d p) s (okay { s.blk with
      reg := { s.blk.reg with stale := true }
      cfg := { s.blk.cfg with checking := true, refused := false } })) ∧
    (bits d 4 0 = 2 → BanksIdle s.blk → s.blk.cfg.idleValid = true → Does (.rollback d p) s (okay { s.blk with
      reg := { s.blk.reg with stale := true }
      cfg := { s.blk.cfg with rolling := true, refused := false } })) ∧
    (bits d 4 0 = 2 → BanksIdle s.blk → s.blk.cfg.idleValid = false →
      ∃ b : Block, Does (.rollback d p) s (okay b) ∧ b.cfg.refused = true ∧ b.cfg.refuseCode = 0x0A ∧
        b.cfg.pending = false ∧ b.reg.irq = (irqRaise .cfg 0 s.blk).reg.irq) ∧
    (bits d 4 0 = 4 → Does (.confirm d p) s (okay { s.blk with
      cfg := { s.blk.cfg with wdOpen := false, wdLeft := 0 } })) ∧
    (bits d 4 0 = 16 → Does (.repairApply d p) s (okay { s.blk with
      cfg := { s.blk.cfg with applying := true } })) ∧
    (bits d 4 0 = 8 → s.blk.cfg.loadBusy = false → s.blk.fault = false →
      bits (wr s.blk 0x0030B0) 16 0 ≠ 0 → loadRangeOk s.blk (wr s.blk 0x0030AC).toNat (bits (wr s.blk 0x0030B0) 16 0) = true →
      Does (.loadGo d p) s (okay (request false (pairAt (wr s.blk) 0x0030A4) (64 * bits (wr s.blk 0x0030B0) 16 0) [] 6
        none .system none .load { s.blk with
          cfg := { s.blk.cfg with
            loadBusy := true, loadSel := apertureSel s.blk, loadSrc := pairAt (wr s.blk) 0x0030A4, loadDst := (wr s.blk 0x0030AC).toNat
            loadLen := bits (wr s.blk 0x0030B0) 16 0, loadDone := 0 } }))) ∧
    (bits d 4 0 = 8 → (s.blk.cfg.loadBusy = true ∨ bits (wr s.blk 0x0030B0) 16 0 = 0 ∨
        loadRangeOk s.blk (wr s.blk 0x0030AC).toNat (bits (wr s.blk 0x0030B0) 16 0) = false) →
      Does (.loadGo d p) s (okay (flagRaise .cfg 12 s.blk))) ∧
    Does (.registerWrite 0x003008 d p) s
      (okay ([0, 1, 2, 3, 4].foldl (fun b k => regWrite .cfg 0x008 (d &&& w32 (2 ^ k)) b) s.blk))

/-- CORR_CLEAR restarts the learning of every class at a correction of 1.0 (R407). FORCE_FAULT raises FORCED, code 0x18 with
FAULT_ADDR zero (R456), with the effects of a fatal fault: GLB's interrupt, OPEN_DROP to the meter, passes, transfers, pending
translation faults and the fault queue discarded (R377, R421), a load ended with LOAD_ERR (R443), and an open watchdog window
fired (R450). -/
def Obligations.CorrAndForce : Prop :=
  ∀ (s : State) (d : Word) (p : BitVec 4),
    (Accepts s.blk .pwr d p → bit d 0 = true → Does (.corrClear d p) s (okay { s.blk with
      pwr := { s.blk.pwr with
        corr := [0x1000, 0x1000, 0x1000, 0x1000], corrAcc := [0, 0, 0, 0], corrCnt := [0, 0, 0, 0] } })) ∧
    (Accepts s.blk .glb d p → bit d 1 = true → s.blk.fault = false →
      ∃ b : Block, Does (.forceFault d p) s (okay b) ∧ b.fault = true ∧ b.faultCode = 0x18 ∧ b.faultAddr = 0 ∧
        bit (irqStat .glb b) 0 = true ∧ b.ctx0 = none ∧ b.ctx1 = none ∧ b.running = none ∧ b.forming = none ∧
        b.mem = { s.blk.mem with
          xfers := [], walks := [], fqueue := [], fqWait := [], xltHeld := [], done := [] } ∧
        b.cfg = { s.blk.cfg with loadBusy := false, wdRollback := s.blk.cfg.wdRollback || s.blk.cfg.wdOpen } ∧
        (s.blk.cfg.loadBusy = true → bit (flagWord .cfg b) 8 = true) ∧
        (s.blk.cfg.wdOpen = true → bit (flagWord .cfg b) 5 = true) ∧
        b.strobes = (strobe .openDrop s.blk).strobes ∧ b.entries = s.blk.entries ∧ b.stores = s.blk.stores ∧
        b.tenants = s.blk.tenants ∧ b.launchQ = s.blk.launchQ)

/-- PWR.STATE_REQ (R398 to R401). DRAIN acts at once; RUN leaves it; RETAIN and OFF are taken from DRAIN with DUSK
alone, and the compute tier is down with them; otherwise the request sets BAD_PARAM and changes neither field nor
state. RUN or DRAIN out of RETAIN, or RUN out of OFF while no rail has fallen, begins the wake, which powers the compute tier
up once its rail is good. That DRAIN out of OFF does so too, and that out of OFF with a rail fallen either is answered and
changes no state, is the model's reading (log entry 108). So are that a refused request leaves the field as it was (log entry
18), that CUR reads 8 once the tier is down (log entry 20), that the wake powers the tier on any control clock, Dawn too (log
entry 107), and that SK_STATE takes the live state on the return from OFF (log entry 71). -/
def Obligations.PowerRequests : Prop :=
  ∀ (s : State) (d : Word) (p : BitVec 4), Accepts s.blk .pwr d p →
    (bits d 2 0 = 2 → s.blk.pwr.state = .run ∨ s.blk.pwr.state = .throttle →
      ∃ b : Block, Does (.stateReqDrain d p) s (okay b) ∧ b.pwr.state = .drain ∧
        (anyPass s.blk = true ∨ portBusy s.blk = true → b = { s.blk with
          reg := { s.blk.reg with written := tset resetVal s.blk.reg.written 0x002080 2 }
          pwr := { s.blk.pwr with state := .drain } })) ∧
    (bits d 2 0 = 0 → s.blk.pwr.state = .drain → s.blk.pwr.stop = false → s.blk.pwr.thLevel ≤ minDiv s.blk →
      s.blk.pwr.plLevel ≤ minDiv s.blk → Does (.stateReqRun d p) s (okay { s.blk with
        reg := { s.blk.reg with written := tset resetVal s.blk.reg.written 0x002080 0 }
        pwr := { s.blk.pwr with state := .run, dusk := false } })) ∧
    (∀ (c : Instr) (v : Word) (st : PState),
      (c = .stateReqRun d p ∧ v = 0 ∧ st = .run ∧ s.blk.pwr.stop = false ∧ s.blk.pwr.thLevel ≤ minDiv s.blk ∧
        s.blk.pwr.plLevel ≤ minDiv s.blk) ∨ (c = .stateReqDrain d p ∧ v = 2 ∧ st = .drain) → bits d 2 0 = v.toNat →
      (s.blk.pwr.state = .retain ∨ (s.blk.pwr.state = .offReady ∧ s.blk.pwr.railFell = false) →
        s.blk.pwr.cmpUp = false → ∃ b : Block, Does c s (okay b) ∧
        b.reg.written = tset resetVal s.blk.reg.written 0x002080 v ∧ b.mirror.sk = s.blk.mirror.live ∧
        (s.blk.pwr.pgCmp = false → b.pwr = { s.blk.pwr with state := st, waking := true, dusk := false }) ∧
        (s.blk.pwr.pgCmp = true → s.blk.pwr.tripHold = false → b.pwr.state = st ∧ b.pwr.waking = true ∧
          b.pwr.dusk = false ∧ b.pwr.cmpUp = true ∧ b.pwr.isolated = false ∧
          b.pwr.ramp = s.blk.pwr.ramp ++ tierItems s.blk)) ∧
      (s.blk.pwr.state = .offReady → s.blk.pwr.railFell = true → Does c s (okay { s.blk with
        reg := { s.blk.reg with written := tset resetVal s.blk.reg.written 0x002080 v } }))) ∧
    (bits d 2 0 = 3 → s.blk.pwr.state = .drain → s.blk.pwr.dusk = true → Does (.stateReqRetain d p) s (okay { s.blk with
        reg := { s.blk.reg with written := tset resetVal s.blk.reg.written 0x002080 3 }
        pwr := { s.blk.pwr with
          state := .retain, cmpUp := false, fastOn := false, divCur := 8, ramp := [], slot := 0 } })) ∧
    (bits d 2 0 = 4 → s.blk.pwr.state = .drain → s.blk.pwr.dusk = true → Does (.stateReqOff d p) s
      (okay (irqRaise .pwr 5 { s.blk with
        reg := { s.blk.reg with written := tset resetVal s.blk.reg.written 0x002080 4 }
        pwr := { s.blk.pwr with
          state := .offReady, cmpUp := false, fastOn := false, divCur := 8, ramp := [], slot := 0
          railFell := !s.blk.pwr.pgCmp } }))) ∧
    (¬ (s.blk.pwr.state = .drain ∧ s.blk.pwr.dusk = true) →
      (bits d 2 0 = 3 → Does (.stateReqRetain d p) s (okay (flagRaise .pwr 7 s.blk))) ∧
      (bits d 2 0 = 4 → Does (.stateReqOff d p) s (okay (flagRaise .pwr 7 s.blk)))) ∧
    ((bits d 2 0 = 1 ∨ 5 ≤ bits d 2 0) → Does (.registerWrite 0x002080 d p) s (okay (flagRaise .pwr 7 s.blk)))

/-- A block soft reset (R434, R435, R450): what it clears and what it keeps. After SRAM_PARITY in the mask region or in
"Other" it clears that store too; a watchdog rollback still to be made, or already pending, is pending after it where a
previous image is there. Of what is cleared and kept, what the manual names only as a group is the model's reading (log
entry 21), and so is that a region is cleared by the place its row of R29 has, Other as a whole (log entry 22). -/
def Obligations.BlockSoftReset : Prop :=
  ∀ (s : State) (d : Word) (p : BitVec 4), Accepts s.blk .glb d p → bit d 0 = true →
    ((s.blk.fault = false ∨ s.blk.faultCode ≠ 4) → s.blk.cfg.wdRollback = false →
    (s.blk.cfg.pending && s.blk.cfg.pendIsAuto) = false →
    ∃ b : Block, Does (.blockSoftReset d p) s (okay b) ∧
      b.fault = false ∧ b.faultCode = 0 ∧ b.faultAddr = 0 ∧ b.resetting = true ∧ b.ctx0 = none ∧ b.ctx1 = none ∧
      b.launchQ = [] ∧ b.host = [] ∧ b.entries = [] ∧ b.dir = [] ∧ b.used = [] ∧ b.counters = [] ∧
      b.reg.flags = [] ∧ b.reg.irq = [] ∧ b.reg.counts = [] ∧ b.mem.xfers = [] ∧ b.mem.access = [] ∧ b.rdg.rx = [] ∧
      b.cfg.loadBusy = false ∧ b.cfg.pending = false ∧
      (∀ a, isTail a = true → wr b a = resetVal a) ∧
      (∀ a, isTail a = false → wr b a = wr s.blk a) ∧
      b.stores = s.blk.stores ∧ b.epochs = s.blk.epochs ∧ b.count = s.blk.count ∧ b.repairs = s.blk.repairs ∧
      b.cfg.active = s.blk.cfg.active ∧ b.cfg.activeValid = s.blk.cfg.activeValid ∧
      b.cfg.idleValid = s.blk.cfg.idleValid ∧ b.pwr.src = s.blk.pwr.src ∧ b.pwr.state = s.blk.pwr.state ∧
      b.pwr.divCur = s.blk.pwr.divCur ∧ b.reg.inForce = s.blk.reg.inForce ∧ b.lastRefill = s.blk.lastRefill ∧
      (twf (fun _ => Tenant.cold) s.blk.tenants = true → ∀ n, (tenantAt b n).fair = 0 ∧ (tenantAt b n).faultCode = 0 ∧
        (tenantAt b n).balance = (tenantAt s.blk n).balance ∧ (tenantAt b n).state = (tenantAt s.blk n).state) ∧
      b.rdg.halt = s.blk.rdg.halt ∧ b.rdg.resync = s.blk.rdg.resync ∧
      b.rdg.gfault = s.blk.rdg.gfault ∧ b.mirror = s.blk.mirror ∧
      b.strobes = if anyOpen s.blk then (strobe .openDrop s.blk).strobes else s.blk.strobes) ∧
    (s.blk.fault = true → s.blk.faultCode = 4 → s.blk.cfg.wdRollback = false →
      (s.blk.cfg.pending && s.blk.cfg.pendIsAuto) = false →
      ∃ b : Block, Does (.blockSoftReset d p) s (okay b) ∧ b.fault = false ∧ b.resetting = true ∧
        (s.blk.faultAddr < 0x7000000 → b.stores = s.blk.stores ∧ b.epochs = s.blk.epochs) ∧
        (0x7000000 ≤ s.blk.faultAddr → s.blk.faultAddr < 0x7800000 →
          b.stores = { s.blk.stores with bitmaps := [], automata := [], bias := [], penalty := [] } ∧
          (∀ k, k < 4 → b.epochs.active.getD k 0 = 0 ∧ b.epochs.pending.getD k false = false)) ∧
        (0x7800000 ≤ s.blk.faultAddr → s.blk.faultAddr < 0x8000000 →
          b.stores = { s.blk.stores with bank0 := [], bank1 := [], prog := [], freq := [], repair := [] } ∧
          b.cfg.activeValid = false ∧ b.cfg.idleValid = false ∧ b.tenants = [])) ∧
    ((s.blk.fault = false ∨ s.blk.faultCode ≠ 4) →
      (s.blk.cfg.wdRollback || (s.blk.cfg.pending && s.blk.cfg.pendIsAuto)) = true → s.blk.cfg.idleValid = true →
      ∃ b : Block, Does (.blockSoftReset d p) s (okay b) ∧ b.fault = false ∧ b.resetting = true ∧ b.cfg.pending = true ∧
        b.cfg.pendIsRollback = true ∧ b.cfg.pendIsAuto = true ∧ b.cfg.idleValid = true ∧ b.cfg.active = s.blk.cfg.active)

/-- A page soft reset of a page other than GLB, TEN and MTR waits for the next boundary with no pass: only the request
is noted. MTR ignores it (R433, R434). -/
def Obligations.PageResetWaits : Prop :=
  ∀ (s : State) (i : BitVec 12) (d : Word) (p : BitVec 4) (g : Page), i.toNat < 0x500 → pageAt i.toNat = some g →
    Accepts s.blk g d p → bit d 0 = true → absentAry s.blk g = false →
    ((∀ n, g ≠ .ten n) → g ≠ .glb → g ≠ .mtr →
      ∃ b : Block, Does (.pageSoftReset i d p) s (okay b) ∧ b.reg.resetPend.contains (i.toNat * 0x1000) = true ∧
        b = { s.blk with reg := { s.blk.reg with resetPend := b.reg.resetPend, sinceReset := b.reg.sinceReset } }) ∧
    (g = .mtr → Does (.pageSoftReset i d p) s (okay s.blk)) ∧
    (g = .glb → exec (.pageSoftReset i d p) s = exec (.blockSoftReset d p) s) ∧
    (∀ n, g = .ten n → exec (.pageSoftReset i d p) s = exec (.tenantReset (BitVec.ofNat 10 n) d p) s)

/-- GATE.ON of a gateable page (R394 to R396): 0 while RUNNING makes it GATE_PENDING; 1 while GATE_PENDING withdraws
the request; 0 while WAKE_PENDING is kept for the wake's end; 1 while GATED makes it WAKE_PENDING, an array's wake taking
its place among the ramp slots of a powered tier, with its spare row where one is in use: that place is the model's reading
of R396 and R402 (log entry 92). A page not listed ignores 0. Every other page's gate stands. -/
def Obligations.GateWrites : Prop :=
  ∀ (s : State) (i : BitVec 12) (d : Word) (p : BitVec 4) (g : Page), i.toNat < 0x500 → pageAt i.toNat = some g →
    FrontOpen s.blk → p.toNat = parBits 4 d.toNat → absentAry s.blk g = false →
    (bit d 0 = false → gateable g = false → Does (.gateRequest i d p) s (okay s.blk)) ∧
    (gateable g = true →
      (bit d 0 = false → gateOf s.blk g = .running →
        ∃ b : Block, Does (.gateRequest i d p) s (okay b) ∧ gateOf b g = .gatePending ∧
          (∀ q, pageBase q ≠ pageBase g → gateOf b q = gateOf s.blk q) ∧
          b = { s.blk with reg := { s.blk.reg with gates := b.reg.gates } }) ∧
      (bit d 0 = false → gateOf s.blk g = .wakePending →
        ∃ b : Block, Does (.gateRequest i d p) s (okay b) ∧ b.reg.gateAfter.contains (pageBase g) = true ∧
          b = { s.blk with reg := { s.blk.reg with gateAfter := b.reg.gateAfter } }) ∧
      (bit d 0 = true → gateOf s.blk g = .gatePending →
        ∃ b : Block, Does (.wakeRequest i d p) s (okay b) ∧ gateOf b g = .running ∧
          (∀ q, pageBase q ≠ pageBase g → gateOf b q = gateOf s.blk q) ∧
          b = { s.blk with reg := { s.blk.reg with gates := b.reg.gates } }) ∧
      (bit d 0 = true → gateOf s.blk g = .gated →
        ∃ b : Block, Does (.wakeRequest i d p) s (okay b) ∧ gateOf b g = .wakePending ∧
          (∀ q, pageBase q ≠ pageBase g → gateOf b q = gateOf s.blk q) ∧
          b = { s.blk with
            reg := { s.blk.reg with gates := b.reg.gates }
            pwr := match g with
              | .ary n => if s.blk.pwr.cmpUp then { s.blk.pwr with
                  ramp := s.blk.pwr.ramp ++ aryItems s.blk n
                  slot := if s.blk.pwr.slot = 0 then slotCount { s.blk with
                      pwr := { s.blk.pwr with ramp := s.blk.pwr.ramp ++ aryItems s.blk n } }
                    else s.blk.pwr.slot }
                else s.blk.pwr
              | _ => s.blk.pwr }))

/-- USE_PLL at 1 moves control from Dawn to a locked PLL, and nothing else while the compute rail is not good; with pg_cmp
already high it powers the compute tier up, or starts the fast domains of a tier that is up (R386, R393, R437). It is only
noted while the PLL is not locked (R392); HALT_CLEAR is taken for the next boundary (R340). -/
def Obligations.PllAndHaltRequests : Prop :=
  ∀ (s : State) (d : Word) (p : BitVec 4), bit d 0 = true →
    (Accepts s.blk .clk d p → s.blk.pwr.pllLock = false → Does (.usePllSet d p) s (okay { s.blk with
      pwr := { s.blk.pwr with usePll := true } })) ∧
    (Accepts s.blk .clk d p → s.blk.pwr.pllLock = true → s.blk.pwr.src = .dawn →
      ∃ b : Block, Does (.usePllSet d p) s (okay b) ∧ b.pwr.src = .pll ∧ b.pwr.usePll = true ∧
        (s.blk.pwr.pgCmp = false → s.blk.pwr.cmpUp = false →
          b = { s.blk with pwr := { s.blk.pwr with usePll := true, src := .pll } }) ∧
        (s.blk.pwr.pgCmp = true → s.blk.pwr.cmpUp = false → s.blk.pwr.tripHold = false → s.blk.pwr.state = .run →
          s.blk.pwr.ramp = [] → s.blk.pwr.slot = 0 → b = { s.blk with pwr := { s.blk.pwr with
            usePll := true, src := .pll, cmpUp := true, isolated := false, ramp := tierItems s.blk, slot := 1 } }) ∧
        (s.blk.pwr.cmpUp = true → s.blk.pwr.ramp = [] → s.blk.pwr.fastOn = false → s.blk.pwr.isolated = false →
          s.blk.pwr.waking = false → b = { s.blk with pwr := { s.blk.pwr with
            usePll := true, src := .pll, fastOn := true, divCur := 8 } })) ∧
    (Accepts s.blk .rdg d p → Does (.haltClear d p) s (okay { s.blk with
      rdg := { s.blk.rdg with clearPend := true } }))

/-- XLT.RESUME (R371): RETRY drops the tenant's cached translations and the walks for its accesses, and ends the wait;
ABORT refuses the one access that waits (one beat, not yet issued), which ends failed with the outcome of R363, and that
such an access counts as refused is the model's reading (log entry 30); either, for a tenant with no pending fault, only
counts in BAD_RESUME. -/
def Obligations.XltResume : Prop :=
  ∀ (s : State) (d : Word) (p : BitVec 4), Accepts s.blk .xlt d p → bit d 11 = true →
    (s.blk.mem.xltHeld.contains (bits d 9 0) = false →
      ∀ c ∈ [Instr.xltRetry d p, .xltAbort d p], Does c s (okay { s.blk with
        reg := { s.blk.reg with counts := tmod (fun _ => 0) s.blk.reg.counts 0x00B09C fun n => sat32 (n + 1) } })) ∧
    (s.blk.mem.xltHeld.contains (bits d 9 0) = true → bit d 10 = false →
      ∃ b : Block, Does (.xltRetry d p) s (okay b) ∧ b.mem.xltHeld = s.blk.mem.xltHeld.filter (· ≠ bits d 9 0) ∧
        b.mem.cache = s.blk.mem.cache.filter (fun c => c.tenant ≠ bits d 9 0) ∧
        (∀ w, w ∈ b.mem.walks ↔ w ∈ s.blk.mem.walks ∧
          ∃ x, (s.blk.mem.xfers.find? fun x => x.id = w.xfer) = some x ∧ x.rights ≠ .tenant (bits d 9 0)) ∧
        b = { s.blk with mem := { s.blk.mem with
          xltHeld := b.mem.xltHeld, cache := b.mem.cache, walks := b.mem.walks } }) ∧
    (s.blk.mem.xltHeld.contains (bits d 9 0) = true → bit d 10 = true → s.blk.fault = false →
      ∀ x : Xfer, s.blk.mem.xfers = [x] → pagedTenant s.blk x = some (bits d 9 0) → xferBeats x = 1 → x.issued = 0 →
      x.redo = [] → x.ended = 0 →
      ∃ b : Block, Does (.xltAbort d p) s (okay b) ∧ (fatalCode x = none → failCode x = none →
        b = { s.blk with mem := { s.blk.mem with
          xltHeld := s.blk.mem.xltHeld.filter (· ≠ bits d 9 0), xfers := []
          done := s.blk.mem.done ++ [{ x with issued := 1, ended := 1, failed := true }] } }) ∧
        (∀ c, fatalCode x = none → failCode x = some c → x.tenant = some (bits d 9 0) →
          (tenantAt s.blk (bits d 9 0)).faultCode = 0 → (tenantAt s.blk (bits d 9 0)).clearPend = false →
          b.mem.xfers = [] ∧ (tenantAt b (bits d 9 0)).faultCode = c))

/-- FQ_POP removes the oldest report, and a report that waited enters (R372); with none it changes nothing (the model's
choice, log entry 6). INVAL.GO drops the cached translations of the tenant named, or of all, and sets BUSY (R373); that
they are gone at once, before BUSY clears, is the model's choice (log entry 28). -/
def Obligations.FaultQueueAndInval : Prop :=
  ∀ (s : State) (d : Word) (p : BitVec 4), Accepts s.blk .xlt d p →
    (bit d 0 = true → ∀ r q, s.blk.mem.fqueue = r :: q →
      (s.blk.mem.fqWait = [] → Does (.fqPop d p) s (okay { s.blk with mem := { s.blk.mem with fqueue := q } })) ∧
      (∀ r' w, s.blk.mem.fqWait = r' :: w → Does (.fqPop d p) s (okay { s.blk with
        mem := { s.blk.mem with fqueue := q ++ [r'], fqWait := w } }))) ∧
    (bit d 0 = true → s.blk.mem.fqueue = [] → Does (.fqPop d p) s (okay s.blk)) ∧
    (bit d 11 = true →
      ∃ b : Block, Does (.invalGo d p) s (okay b) ∧ b.mem.invalBusy = true ∧
        b.mem.cache = s.blk.mem.cache.filter (fun c => !(bit d 10 || c.tenant = bits d 9 0)) ∧
        b.mem.xfers = s.blk.mem.xfers ∧ b.mem.access = s.blk.mem.access ∧ wr b 0x00B084 = d &&& 0x7FF ∧
        (∀ a, a ≠ 0x00B084 → wr b a = wr s.blk a) ∧ b.entries = s.blk.entries ∧ b.tenants = s.blk.tenants ∧
        b.stores = s.blk.stores)

/-! ## Events that end what a write began -/

/-- The end of a bank check (R446, R448, R449): an image that fails is refused with its code and the interrupt, and
no switch is pending; one that passes is pending and valid, its words below LENGTH as they were and zero above; the
preparation of a ROLLBACK makes the idle bank pending as it stands. The end of a repair check (R453) sets REPAIR_DONE
or refuses with a code. -/
def Obligations.ConfigChecksEnd : Prop :=
  ∀ s : State, Live s.blk →
    (s.blk.cfg.checking = true → ∀ c d, imageCheck s.blk.grade (bankWords s.blk (1 - s.blk.cfg.active)) = some (c, d) →
      ∃ b : Block, Does .cfgCheckDone s b ∧ b.cfg.refused = true ∧ b.cfg.refuseCode = c ∧
        (∀ x, d = some x → b.cfg.refuseDetail = x % 65536) ∧ b.cfg.checking = false ∧
        b.cfg.pending = s.blk.cfg.pending ∧ b.stores = s.blk.stores ∧ b.reg = (irqRaise .cfg 0 s.blk).reg) ∧
    (s.blk.cfg.checking = true → imageCheck s.blk.grade (bankWords s.blk (1 - s.blk.cfg.active)) = none →
      ∃ b : Block, Does .cfgCheckDone s b ∧ b.cfg = { s.blk.cfg with
          checking := false, pending := true, pendIsRollback := false, pendIsAuto := false, idleValid := true } ∧
        (∀ k, k < (bankWord s.blk (1 - s.blk.cfg.active) 16).toNat / 4 →
          bankWord b (1 - s.blk.cfg.active) (4 * k) = bankWord s.blk (1 - s.blk.cfg.active) (4 * k)) ∧
        (∀ k, (bankWord s.blk (1 - s.blk.cfg.active) 16).toNat / 4 ≤ k → k < 262144 →
          bankWord b (1 - s.blk.cfg.active) (4 * k) = 0) ∧
        (s.blk.cfg.active < 2 → bankWords b s.blk.cfg.active = bankWords s.blk s.blk.cfg.active)) ∧
    (s.blk.cfg.checking = false → s.blk.cfg.rolling = true → Does .cfgCheckDone s { s.blk with
      cfg := { s.blk.cfg with rolling := false, pending := true, pendIsRollback := true, pendIsAuto := false } }) ∧
    (s.blk.cfg.applying = true → repairCheck s.blk = none → Does .repairApplyDone s { s.blk with
      cfg := { s.blk.cfg with applying := false, repairRefused := false, repairDone := true } }) ∧
    (s.blk.cfg.applying = true → ∀ c d, repairCheck s.blk = some (c, d) → Does .repairApplyDone s { s.blk with
      cfg := { s.blk.cfg with
        applying := false, repairRefused := true, refuseCode := c, refuseDetail := d % 65536 } })

/-- The end of a table check. SFU (R145, R146): a store that passes is pending; one that fails is refused, its
offending word recorded and the interrupt raised. SEL (R179): the stores of the oldest request become pending
together, or none does, each that fails is refused, and the lowest failing store's item is recorded. While the page's clock
is removed its check does not end (R395). -/
def Obligations.TableChecksEnd : Prop :=
  ∀ s : State, Live s.blk →
    (gatedOut s.blk .sfu = true → ∀ k : SfuStore, Does (.sfuTableCheckDone k) s s.blk) ∧
    (gatedOut s.blk .sel = true → Does .selTableCheckDone s s.blk) ∧
    (gatedOut s.blk .sfu = false → s.blk.epochs.progCheck = true →
      (progCheck s.blk (idleEpoch s.blk 4) = none → Does (.sfuTableCheckDone .prog) s { s.blk with
        epochs := { s.blk.epochs with progCheck := false, pending := setNth s.blk.epochs.pending 4 true } }) ∧
      (∀ w, progCheck s.blk (idleEpoch s.blk 4) = some w → Does (.sfuTableCheckDone .prog) s (irqRaise .sfu 0 { s.blk with
        epochs := { s.blk.epochs with
          progCheck := false, refused := setNth s.blk.epochs.refused 4 true, sfuWord := w } }))) ∧
    (gatedOut s.blk .sfu = false → s.blk.epochs.freqCheck = true →
      (freqCheck s.blk (idleEpoch s.blk 5) = none → Does (.sfuTableCheckDone .freq) s { s.blk with
        epochs := { s.blk.epochs with freqCheck := false, pending := setNth s.blk.epochs.pending 5 true } }) ∧
      (∀ w, freqCheck s.blk (idleEpoch s.blk 5) = some w → Does (.sfuTableCheckDone .freq) s (irqRaise .sfu 0 { s.blk with
        epochs := { s.blk.epochs with
          freqCheck := false, refused := setNth s.blk.epochs.refused 5 true, sfuWord := w } }))) ∧
    (∀ c rest, gatedOut s.blk .sel = false → s.blk.epochs.selChecks = c :: rest →
      ((∀ k, k < 4 → c.getD k false = true → selFail s.blk k = none) → Does .selTableCheckDone s { s.blk with
        epochs := { s.blk.epochs with
          selChecks := rest, pending := s.blk.epochs.pending.mapIdx fun i b => b || c.getD i false } }) ∧
      (∀ k w, k < 4 → c.getD k false = true → selFail s.blk k = some w →
        (∀ j, j < k → c.getD j false = true → selFail s.blk j = none) →
        ∃ b : Block, Does .selTableCheckDone s b ∧ b.epochs.pending = s.blk.epochs.pending ∧
          b.epochs.active = s.blk.epochs.active ∧ b.epochs.selIndex = w ∧ b.epochs.selChecks = rest ∧
          (k < s.blk.epochs.refused.length → b.epochs.refused.getD k false = true) ∧
          b.reg = (irqRaise .sel 0 s.blk).reg))

/-- A beat of a load lands by the rules of its window (R442, R465), sixteen words in order, in the window that the aperture
LOAD_GO captured gives. The request table's host region takes its words without their reserved bits (R250), its block region
none, with LOCKED_WRITE (R251). Of the directory word 0 of an entry in use lands, its other words set LOCKED_WRITE (R271). A
bank takes them while it is not locked (R447), a switched store in its idle epoch while that is not locked (R144, R178), else
the page's flag rises; one whose page is gated takes none (R474). The repair map takes them before REPAIR_DONE too (R438). A
policy record takes each register that is in range, the words in order, refuses another with POLICY_BAD, and adds the GRANT
(R278 to R280). LOAD_DONE counts the beat, and the last one ends the load. Which places of a store's word are reserved, and
that a refused word marks no batch, are the model's reading (log entries 80 and 25). -/
def Obligations.LoadBeatLands : Prop :=
  ∀ (s : State) (x : Xfer) (v : Win) (d off : Nat) (w : Nat → Word), Live s.blk → s.blk.cfg.loadBusy = true →
    s.blk.sramInit = false → s.blk.cfg.repairDone = true ∨ v = .repair → loadXfer s.blk = some x →
    beatHere s.blk x s.blk.cfg.loadDone = true → d = s.blk.cfg.loadDst + 64 * s.blk.cfg.loadDone → d % 64 = 0 →
    winAt s.blk.cfg.loadSel d = some (v, off) →
    w = (fun i => w32 (numAt (beatBytes (tget (fun _ => 0) x.got s.blk.cfg.loadDone)) (4 * i) 4)) →
    ∃ b : Block, Does .loadBeat s b ∧ b.cfg.loadDone = s.blk.cfg.loadDone + 1 ∧
      b.cfg.loadBusy = decide (s.blk.cfg.loadDone + 1 ≠ s.blk.cfg.loadLen) ∧
      (v = .reqTable → b.stores = s.blk.stores ∧ b.dirHost = s.blk.dirHost ∧
        (off % 512 < 256 → b.reg = s.blk.reg ∧
          (∀ i, i < 16 → tget zeroWord b.host (off / 4 + i) = w i &&& hostMask (off % 512 / 4 + i)) ∧
          (∀ k, k < off / 4 ∨ off / 4 + 16 ≤ k → tget zeroWord b.host k = tget zeroWord s.blk.host k)) ∧
        (256 ≤ off % 512 → b.host = s.blk.host ∧ FlagRaised s.blk b .req 0)) ∧
      (v = .dir → b.stores = s.blk.stores ∧ b.host = s.blk.host ∧
        (∀ i, i < 4 → off / 16 + i < spillN s.blk →
          tget zeroWord b.dirHost (off / 16 + i) = w (4 * i) &&& 0xFFF) ∧
        (∀ k, k < off / 16 ∨ off / 16 + 4 ≤ k ∨ spillN s.blk ≤ k →
          tget zeroWord b.dirHost k = tget zeroWord s.blk.dirHost k) ∧
        (off / 16 < spillN s.blk → FlagRaised s.blk b .req 0) ∧ (spillN s.blk ≤ off / 16 → b.reg = s.blk.reg)) ∧
      (v = .config → b.host = s.blk.host ∧ b.dirHost = s.blk.dirHost ∧
        (bankLocked s.blk (off / 0x100000) = true →
          b.stores = s.blk.stores ∧ b.cfg.idleValid = s.blk.cfg.idleValid ∧ FlagRaised s.blk b .cfg 11) ∧
        (bankLocked s.blk (off / 0x100000) = false → s.blk.cfg.active < 2 → b.cfg.idleValid = false ∧
          (∀ i, i < 16 → bankWord b (1 - s.blk.cfg.active) (off % 0x100000 + 4 * i) = w i) ∧
          (∀ o, o / 4 < off % 0x100000 / 4 ∨ off % 0x100000 / 4 + 16 ≤ o / 4 →
            bankWord b (1 - s.blk.cfg.active) o = bankWord s.blk (1 - s.blk.cfg.active) o) ∧
          bankWords b s.blk.cfg.active = bankWords s.blk s.blk.cfg.active ∧ b.reg = s.blk.reg ∧
          b.stores = { s.blk.stores with bank0 := b.stores.bank0, bank1 := b.stores.bank1 })) ∧
      (v = .repair → b.host = s.blk.host ∧ b.dirHost = s.blk.dirHost ∧ b.reg = s.blk.reg ∧
        b.stores = { s.blk.stores with repair := b.stores.repair } ∧
        (∀ i, i < 16 → tget zeroWord b.stores.repair (off / 4 + i) = w i) ∧
        (∀ k, k < off / 4 ∨ off / 4 + 16 ≤ k →
          tget zeroWord b.stores.repair k = tget zeroWord s.blk.stores.repair k)) ∧
      (v = .policy → b.stores = s.blk.stores ∧ b.host = s.blk.host ∧ b.dirHost = s.blk.dirHost ∧
        b.tenants = (grantAdd (off / 64) (w 3) s.blk).tenants ∧ b.reg.stale = true ∧
        (∀ (k a : Nat) (r : RwDef) (z : Word × Bool), k < 8 → k ≠ 3 → a = 0xFC0000 + off + 4 * k → rwDef a = some r →
          z = r.merge (fun j => if j < a then wr b j else wr s.blk j) (wr s.blk a) (w k) →
          wr b a = z.1 ∧ (z.2 = true → bit (flagWord (.ten (off / 64)) b) 4 = true)) ∧
        (∀ a, a < 0xFC0000 + off ∨ 0xFC0000 + off + 64 ≤ a ∨ rwDef a = none → wr b a = wr s.blk a) ∧
        (∀ q, pageBase q ≠ pageBase (.ten (off / 64)) → flagWord q b = flagWord q s.blk)) ∧
      b = { s.blk with
        host := b.host, dirHost := b.dirHost, stores := b.stores, tenants := b.tenants, reg := b.reg, cfg := b.cfg
        mem := b.mem } ∧
      (∀ (k size : Nat) (g : Page), (v, k, size, g) ∈ [(Win.bitmaps, 0, 0x200000, Page.sel),
          (.automata, 1, 0x80000, .sel), (.bias, 2, 0x80000, .sel), (.penalty, 3, 0x2000, .sel),
          (.prog, 4, 0x20000, .sfu), (.freq, 5, 0x20000, .sfu)] →
        b.host = s.blk.host ∧ b.dirHost = s.blk.dirHost ∧
        (gatedOut s.blk g = true → b.stores = s.blk.stores ∧ b.reg = s.blk.reg) ∧
        (gatedOut s.blk g = false → epochLocked s.blk k (off / size) = true →
          b.stores = s.blk.stores ∧ FlagRaised s.blk b g (if g = .sfu then 1 else 0)) ∧
        (gatedOut s.blk g = false → epochLocked s.blk k (off / size) = false → b.reg = s.blk.reg ∧
          (∀ i, i < 16 → winRead v (off + 4 * i) b = w i &&& placeMask v (off + 4 * i) (w i)) ∧
          (∀ (u : Win) (o : Nat), u ≠ v ∨ o / 4 < off / 4 ∨ off / 4 + 16 ≤ o / 4 →
            winRead u o b = winRead u o s.blk)))

/-- Single events: a gate takes effect at its idle boundary (R395); a wake ends, of a page at once and of an array whose
ramp slot is over (R396, R402), and the gate request of a 0 written meanwhile follows (R396); the block soft reset completes
(R435); an invalidation ends (R373); the SRAM clear ends (R437); the compute tier of RETAIN or OFF is isolated (R400). That
WAKE_DONE of an array that stands in the ramp queue, or whose tier is down, does nothing is the model's choice (log entries 6
and 92). -/
def Obligations.SingleEvents : Prop :=
  ∀ s : State, Live s.blk →
    (∀ (i : BitVec 12) (g : Page), pageAt i.toNat = some g → gateOf s.blk g = .gatePending → gateIdle s.blk g = true →
      ∃ b : Block, Does (.gateEffect i) s b ∧ gateOf b g = .gated ∧
        (∀ q, pageBase q ≠ pageBase g → gateOf b q = gateOf s.blk q) ∧
        b = { s.blk with reg := { s.blk.reg with gates := b.reg.gates } }) ∧
    (∀ (i : BitVec 12) (g : Page), pageAt i.toNat = some g → gateOf s.blk g = .wakePending →
      (∀ n, g = .ary n → s.blk.pwr.cmpUp = true ∧ s.blk.pwr.ramp.contains ⟨1, n⟩ = false) →
      ∃ b : Block, Does (.wakeDone i) s b ∧
        gateOf b g = (if s.blk.reg.gateAfter.contains (pageBase g) then .gatePending else .running) ∧
        (∀ q, pageBase q ≠ pageBase g → gateOf b q = gateOf s.blk q) ∧ b.reg.gateAfter.contains (pageBase g) = false ∧
        b = { s.blk with reg := { s.blk.reg with gates := b.reg.gates, gateAfter := b.reg.gateAfter } }) ∧
    (∀ (i : BitVec 12) (n : Nat), pageAt i.toNat = some (.ary n) →
      s.blk.pwr.cmpUp = false ∨ s.blk.pwr.ramp.contains ⟨1, n⟩ = true → Does (.wakeDone i) s s.blk) ∧
    Does .resetComplete s { s.blk with resetting := false } ∧
    Does .invalDone s { s.blk with mem := { s.blk.mem with invalBusy := false } } ∧
    Does .sramInitDone s { s.blk with sramInit := false } ∧
    (s.blk.pwr.state = .retain ∨ s.blk.pwr.state = .offReady → s.blk.pwr.isolated = false →
      Does .cmpIsolated s (irqRaise .pwr 4 { s.blk with pwr := { s.blk.pwr with isolated := true } }))

/-! ## Resets, clocks and power -/

/-- A cold reset, by rst_n or by a base-tier rail (R56 to R58, R383, R434): every register, table and pass of the block
is as after power-up; pins, grade and a Dawn judgement stay, but for a fall of pg_base, which loses the judgement; the
meter island is untouched, and sees rst_n as OPEN_DROP (R421), behind the strobes already sent, which is the model's
reading (log entry 70). -/
def Obligations.ColdResetClears : Prop :=
  ∀ s : State, s.blk.testMode = false → ∀ (c : Instr), (c = .rstNAssert ∨ ∃ r, c = .pgBaseFall r) →
    ∃ b : Block, Does c s b ∧ b.reg = RegSide.cold ∧ b.stores = ⟨[], [], [], [], [], [], [], [], []⟩ ∧
      b.epochs = Epochs.cold ∧ b.cfg = CfgSide.cold ∧ b.mem = MemSide.cold ∧ b.rdg = RdgSide.cold ∧
      b.step = StepRegs.cold ∧ b.fault = false ∧ b.sramInit = true ∧ b.launched = false ∧ b.count = none ∧
      b.launchQ = [] ∧ b.host = [] ∧ b.dirHost = [] ∧ b.entries = [] ∧ b.dir = [] ∧ b.used = [] ∧ b.counters = [] ∧
      b.tenants = [] ∧ b.ctx0 = none ∧ b.ctx1 = none ∧ b.formed = none ∧ b.nArr = 0 ∧ b.grade = s.blk.grade ∧
      b.pwr.rstLow = true ∧ b.pwr.src = .start ∧ b.pwr.pgCmp = s.blk.pwr.pgCmp ∧ b.pwr.pgMtr = s.blk.pwr.pgMtr ∧
      b.pwr.strap = s.blk.pwr.strap ∧ b.mirror.sk = s.blk.mirror.live ∧
      b.pwr.dawnOk = (s.blk.pwr.dawnOk && decide (c ≠ .pgBaseFall .base)) ∧
      b.strobes = if s.blk.pwr.pgMtr then s.blk.strobes ++ [.rstDrop] else []

/-- rst_n, or the last base-tier rail, rising ends the cold reset (R58, R383 to R385): the judgement of Dawn begins if
it has not begun, and one already made starts control on Dawn. While another cause holds the block in reset it stays. A
rise of rst_n or of a rail that is high already changes nothing (the model's choice, log entry 6). That a rail's rise with
rst_n high acts as the deassertion does is the model's reading (log entry 23). -/
def Obligations.ColdResetEnds : Prop :=
  ∀ (s : State) (st : BitVec 4), s.blk.testMode = false →
    (s.blk.pwr.pinLow = true → railsUp s.blk = true →
      ∃ b : Block, Does (.rstNDeassert st) s b ∧ b.pwr.rstLow = false ∧ b.pwr.pinLow = false ∧ b.pwr.strap = st ∧
        b.pwr.judging = true ∧ b.pwr.src = (if s.blk.pwr.dawnOk then .dawn else .start) ∧
        (s.blk.pwr.judging = true → b.pwr.windows = s.blk.pwr.windows ∧ b.pwr.refSeen = s.blk.pwr.refSeen) ∧
        b = { s.blk with pwr := b.pwr }) ∧
    (s.blk.pwr.pinLow = true → railsUp s.blk = false → Does (.rstNDeassert st) s { s.blk with
      pwr := { s.blk.pwr with pinLow := false, strap := st } }) ∧
    (s.blk.pwr.pinLow = false → Does (.rstNDeassert st) s s.blk) ∧
    (∀ r : BaseRail, railUp s.blk r = false →
      (s.blk.pwr.pinLow = true ∨ railsUp { s.blk with pwr := setRail r true s.blk.pwr } = false →
        Does (.pgBaseRise r) s { s.blk with pwr := setRail r true s.blk.pwr }) ∧
      (s.blk.pwr.pinLow = false → railsUp { s.blk with pwr := setRail r true s.blk.pwr } = true →
        ∃ b : Block, Does (.pgBaseRise r) s b ∧ b.pwr.rstLow = false ∧ railsUp b = true ∧ b.pwr.judging = true ∧
          b.pwr.src = (if s.blk.pwr.dawnOk then .dawn else .start) ∧
          (s.blk.pwr.judging = true → b.pwr.windows = s.blk.pwr.windows ∧ b.pwr.refSeen = s.blk.pwr.refSeen) ∧
          b = { s.blk with pwr := b.pwr })) ∧
    (∀ r : BaseRail, railUp s.blk r = true → Does (.pgBaseRise r) s s.blk)

/-- The Dawn judgement and the PLL (R383 to R386, R392): a window inside both limits judges Dawn stable and, from START,
starts control on Dawn; so does the strap delay when no refclk edge has come; the first edge after reset starts the
PLL; its lock starts control on it while USE_PLL is 1, and with pg_cmp already high the compute tier's power-ups are queued, or
the fast domains of a tier that is up start (R386, R393, R402, R437). -/
def Obligations.ClocksStart : Prop :=
  ∀ s : State, s.blk.testMode = false → s.blk.pwr.rstLow = false →
    (∀ c : BitVec 16, s.blk.pwr.judging = true → s.blk.pwr.refSeen = true → s.blk.pwr.refclkOk = true →
      s.blk.pwr.dawnOk = false → s.blk.pwr.src = .start → 1 ≤ s.blk.pwr.windows →
      (6144 ≤ c.toNat ∧ c.toNat ≤ 10240 ∧ s.blk.pwr.prevWin * 97 ≤ c.toNat * 100 ∧ c.toNat * 100 ≤ s.blk.pwr.prevWin * 103 →
        Does (.dawnWindow c) s (irqRaise .clk 1 { s.blk with pwr := { s.blk.pwr with
          windows := s.blk.pwr.windows + 1, prevWin := c.toNat, dawnCount := c.toNat, dawnOk := true, src := .dawn } })) ∧
      (c.toNat < 6144 ∨ 10240 < c.toNat ∨ c.toNat * 100 < s.blk.pwr.prevWin * 97 ∨ s.blk.pwr.prevWin * 103 < c.toNat * 100 →
        Does (.dawnWindow c) s { s.blk with pwr := { s.blk.pwr with
          windows := s.blk.pwr.windows + 1, prevWin := c.toNat, dawnCount := c.toNat } })) ∧
    (s.blk.pwr.judging = true → s.blk.pwr.refSeen = false → s.blk.pwr.dawnOk = false → s.blk.pwr.src = .start →
      Does .dawnStrapExpiry s (irqRaise .clk 1 { s.blk with pwr := { s.blk.pwr with
        dawnByStrap := true, dawnOk := true, src := .dawn } })) ∧
    (s.blk.pwr.refclkOk = false → s.blk.pwr.judging = true → s.blk.pwr.refSeen = false →
      Does .refclkFirstEdge s { s.blk with pwr := { s.blk.pwr with
        refclkOk := true, pllStarted := true, refSeen := true, windows := 0 } }) ∧
    (s.blk.pwr.pllStarted = true → s.blk.pwr.refclkOk = true → s.blk.pwr.pllLock = false → s.blk.pwr.src ≠ .hold →
      (s.blk.pwr.usePll = true → s.blk.pwr.pgCmp = false → s.blk.pwr.cmpUp = false →
        Does .pllLock s { s.blk with pwr := { s.blk.pwr with pllLock := true, src := .pll } }) ∧
      (s.blk.pwr.usePll = true → s.blk.pwr.pgCmp = true → s.blk.pwr.cmpUp = false → s.blk.pwr.tripHold = false →
        s.blk.pwr.state = .run → s.blk.pwr.ramp = [] → s.blk.pwr.slot = 0 →
        Does .pllLock s { s.blk with pwr := { s.blk.pwr with
          pllLock := true, src := .pll, cmpUp := true, isolated := false, ramp := tierItems s.blk, slot := 1 } }) ∧
      (s.blk.pwr.usePll = true → s.blk.pwr.cmpUp = true → s.blk.pwr.ramp = [] → s.blk.pwr.fastOn = false →
        s.blk.pwr.isolated = false → s.blk.pwr.waking = false → Does .pllLock s { s.blk with
          pwr := { s.blk.pwr with pllLock := true, src := .pll, fastOn := true, divCur := 8 } }) ∧
      (s.blk.pwr.usePll = false → Does .pllLock s { s.blk with pwr := { s.blk.pwr with pllLock := true } }))

/-- The clock monitor trips (R387 to R391): the fast domains stop, USE_PLL clears, MON_TRIPS rises by one, the cause is
recorded, the meter hears of it, and control moves to a judged Dawn or into CLOCK_HOLD. With a pass or an access lost it
is the fatal CLOCK_LOSS, at once on Dawn and otherwise when a clock comes. -/
def Obligations.MonitorTrips : Prop :=
  ∀ (s : State) (c : MonCause), s.blk.testMode = false → s.blk.pwr.rstLow = false → s.blk.pwr.src = .pll →
    ∃ b : Block, Does (.monitorTrip c) s b ∧ b.pwr.fastOn = false ∧ b.pwr.usePll = false ∧ b.pwr.monCause = monCode c ∧
      b.reg.counts = (countUp 0x00108C 1 s.blk).reg.counts ∧
      b.pwr.src = (if s.blk.pwr.dawnOk then .dawn else .hold) ∧
      ((anyPass s.blk || !s.blk.mem.access.isEmpty || ridgeExpected s.blk) = false →
        b.fault = s.blk.fault ∧ b.pwr.lossPend = s.blk.pwr.lossPend ∧ bit (irqStat .clk b) 0 = true ∧
        b.strobes = (if s.blk.pwr.dawnOk then (strobe (.clock false) s.blk).strobes
          else (strobe (.clock true) (strobe (.clock false) s.blk)).strobes)) ∧
      ((anyPass s.blk || !s.blk.mem.access.isEmpty || ridgeExpected s.blk) = true → s.blk.fault = false →
        (s.blk.pwr.dawnOk = true → b.fault = true ∧ b.faultCode = 0x10 ∧ b.faultAddr = monCode c) ∧
        (s.blk.pwr.dawnOk = false → b.fault = false ∧ b.pwr.lossPend = true))

/-- The compute rail and its queue (R58, R393, R400, R402): pg_cmp falling outside RETAIN and OFF is CMP_POWER, code 0x11,
and the tier is down and isolated, with the interrupt of R414; in RETAIN or OFF it is expected. Its rise on the PLL queues
the tier's common logic, its arrays and their spare rows, and the common logic takes the first slot alone. The end of a slot
powers what it granted, whatever was queued since; an array that waited for it is RUNNING, or GATE_PENDING where a 0 was
written meanwhile (R396), and the next slot grants a run of items of one kind, no more than RAMP allows. The last slot
starts the fast domains, and ends a wake with WAKE_DONE. Without a control clock no slot ends (R389). The divider moves one
step toward its target. That CUR reads 8 with the tier down, that a slot powers what was queued when it began, and that a
slot's end with no slot, or a divider step at its target, does nothing are the model's reading (log entries 20, 92 and 6),
and so is that a fall of pg_cmp in RETAIN or OFF counts as a rail that has fallen (log entry 108). -/
def Obligations.ComputeRail : Prop :=
  ∀ s : State, s.blk.testMode = false → s.blk.pwr.rstLow = false →
    (s.blk.pwr.state = .run ∨ s.blk.pwr.state = .throttle ∨ s.blk.pwr.state = .drain → s.blk.fault = false →
      ∃ b : Block, Does .pgCmpFall s b ∧ b.fault = true ∧ b.faultCode = 0x11 ∧ b.pwr.pgCmp = false ∧ b.pwr.cmpUp = false ∧
        b.pwr.fastOn = false ∧ b.pwr.isolated = true ∧
        (s.blk.pwr.isolated = false → bit (irqStat .pwr b) 4 = true)) ∧
    (s.blk.pwr.state = .retain ∨ s.blk.pwr.state = .offReady → Does .pgCmpFall s { s.blk with pwr := { s.blk.pwr with
      pgCmp := false, railFell := true, cmpUp := false, fastOn := false, divCur := 8, ramp := [], slot := 0 } }) ∧
    (s.blk.pwr.src = .pll → s.blk.pwr.cmpUp = false → s.blk.pwr.tripHold = false → s.blk.pwr.state = .run →
      s.blk.pwr.ramp = [] → s.blk.pwr.slot = 0 →
      ∃ b : Block, Does .pgCmpRise s b ∧ b.pwr.ramp = tierItems s.blk ∧ b.pwr.slot = 1 ∧ b = { s.blk with
        pwr := { s.blk.pwr with pgCmp := true, cmpUp := true, isolated := false, ramp := b.pwr.ramp, slot := 1 } }) ∧
    (s.blk.pwr.slot = 0 ∨ ctrlClock s.blk = false → Does .rampSlotEnd s s.blk) ∧
    (ctrlClock s.blk = true → 0 < s.blk.pwr.slot → s.blk.pwr.ramp.drop s.blk.pwr.slot ≠ [] → ∃ b : Block, Does .rampSlotEnd s b ∧
      b.pwr = { s.blk.pwr with ramp := s.blk.pwr.ramp.drop s.blk.pwr.slot, slot := b.pwr.slot } ∧
      (∀ i l, b.pwr.ramp = i :: l → 1 ≤ bits (wr s.blk 0x002084) 18 16 → 1 ≤ bits (wr s.blk 0x002084) 22 19 →
        1 ≤ b.pwr.slot ∧ b.pwr.slot ≤ b.pwr.ramp.length ∧ (∀ j, j ∈ b.pwr.ramp.take b.pwr.slot → j.kind = i.kind) ∧
        (i.kind = 0 → b.pwr.slot = 1) ∧ (i.kind = 1 → b.pwr.slot ≤ bits (wr s.blk 0x002084) 18 16) ∧
        (2 ≤ i.kind → b.pwr.slot ≤ bits (wr s.blk 0x002084) 22 19)) ∧
      (∀ n, ⟨1, n⟩ ∈ s.blk.pwr.ramp.take s.blk.pwr.slot → gateOf s.blk (.ary n) = .wakePending → gateOf b (.ary n) =
        if s.blk.reg.gateAfter.contains (pageBase (.ary n)) then .gatePending else .running) ∧
      (∀ q, (∀ n, ⟨1, n⟩ ∈ s.blk.pwr.ramp.take s.blk.pwr.slot → pageBase q ≠ pageBase (.ary n)) →
        gateOf b q = gateOf s.blk q) ∧
      b = { s.blk with
        pwr := b.pwr, reg := { s.blk.reg with gates := b.reg.gates, gateAfter := b.reg.gateAfter } }) ∧
    (ctrlClock s.blk = true → 0 < s.blk.pwr.slot → s.blk.pwr.ramp.drop s.blk.pwr.slot = [] → ∃ b : Block, Does .rampSlotEnd s b ∧
      (∀ n, ⟨1, n⟩ ∈ s.blk.pwr.ramp → gateOf s.blk (.ary n) = .wakePending → gateOf b (.ary n) =
        if s.blk.reg.gateAfter.contains (pageBase (.ary n)) then .gatePending else .running) ∧
      (∀ q, (∀ n, ⟨1, n⟩ ∈ s.blk.pwr.ramp → pageBase q ≠ pageBase (.ary n)) → gateOf b q = gateOf s.blk q) ∧
      (s.blk.pwr.src = .pll → s.blk.pwr.cmpUp = true → s.blk.pwr.fastOn = false → s.blk.pwr.isolated = false →
        b.pwr = { s.blk.pwr with ramp := [], slot := 0, fastOn := true, divCur := 8, waking := false } ∧
        (s.blk.pwr.waking = true → bit (irqStat .pwr b) 3 = true) ∧
        (s.blk.pwr.waking = false → b.reg.irq = s.blk.reg.irq)) ∧
      (s.blk.pwr.src ≠ .pll ∨ s.blk.pwr.cmpUp = false ∨ s.blk.pwr.fastOn = true ∨ s.blk.pwr.isolated = true →
        b.pwr = { s.blk.pwr with ramp := [], slot := 0 } ∧ b.reg.irq = s.blk.reg.irq) ∧
      b = { s.blk with
        pwr := b.pwr
        reg := { s.blk.reg with gates := b.reg.gates, gateAfter := b.reg.gateAfter, irq := b.reg.irq } }) ∧
    (s.blk.pwr.fastOn = true →
      (s.blk.pwr.divCur < divTarget s.blk → Does .dividerRampStep s { s.blk with
        pwr := { s.blk.pwr with divCur := s.blk.pwr.divCur + 1 } }) ∧
      (divTarget s.blk < s.blk.pwr.divCur → Does .dividerRampStep s { s.blk with
        pwr := { s.blk.pwr with divCur := s.blk.pwr.divCur - 1 } }) ∧
      (s.blk.pwr.divCur = divTarget s.blk → Does .dividerRampStep s s.blk))

/-- A thermal evaluation (R398, R408 to R410): temperature and sensor are recorded, each level moves one step by its rule,
and the state passes between RUN and THROTTLE, into THROTTLE with its interrupt. At T_STOP STOP is set and counted, and a
pass in its tile phase is asked to park; below T_STOP − 5 STOP clears, the divider restarts at 8 and the parked pass
resumes. At T_TRIP it is THERMAL_TRIP with temperature and sensor in FAULT_ADDR, and the tier is down and isolated, with the
interrupt of R414. A pass in an exchange is not asked (R326), nor later in its place, and one that is asked finishes its
tile by its own PREEMPT_FINISH, which are the model's choice (log entries 143 and 115). -/
def Obligations.ThermalEvaluates : Prop :=
  ∀ (s : State) (temp : BitVec 8) (sensor : BitVec 4) (watts remaining : Nat), Live s.blk →
    ∃ b : Block, Does (.thermalEval temp sensor watts remaining) s b ∧
      b.pwr.tempHot = temp.toNat ∧ b.pwr.tempSensor = sensor.toNat ∧
      b.pwr.thLevel = (if therm s.blk 1 ≤ temp.toNat then min 8 (s.blk.pwr.thLevel + 1)
        else if temp.toNat + 5 < therm s.blk 1 then max 2 (s.blk.pwr.thLevel - 1) else s.blk.pwr.thLevel) ∧
      b.pwr.plLevel = (if bits (wr s.blk 0x0020C8) 7 0 < watts then min 8 (s.blk.pwr.plLevel + 1)
        else if 10 * watts < 9 * bits (wr s.blk 0x0020C8) 7 0 then max 2 (s.blk.pwr.plLevel - 1)
        else s.blk.pwr.plLevel) ∧
      b.pwr.stop = (decide (therm s.blk 2 ≤ temp.toNat) || (s.blk.pwr.stop && decide (therm s.blk 2 ≤ temp.toNat + 5))) ∧
      (therm s.blk 3 ≤ temp.toNat → s.blk.fault = false → b.fault = true ∧ b.faultCode = 0x12 ∧
        b.faultAddr = temp.toNat + sensor.toNat * 256 ∧ b.pwr.cmpUp = false ∧ b.pwr.isolated = true ∧
        (s.blk.pwr.isolated = false → bit (irqStat .pwr b) 4 = true)) ∧
      (temp.toNat < therm s.blk 3 → b.fault = s.blk.fault) ∧
      b.pwr.state = (if s.blk.pwr.state = .run ∨ s.blk.pwr.state = .throttle then
          (if minDiv s.blk < b.pwr.thLevel ∨ minDiv s.blk < b.pwr.plLevel ∨ b.pwr.stop = true then .throttle else .run)
        else s.blk.pwr.state) ∧
      (s.blk.pwr.state = .run → b.pwr.state = .throttle → bit (irqStat .pwr b) 1 = true) ∧
      (s.blk.pwr.stop = false → therm s.blk 2 ≤ temp.toNat → bit (irqStat .pwr b) 2 = true ∧
        countOf 0x0020CC b = sat32 (countOf 0x0020CC s.blk + 1) ∧
        (temp.toNat < therm s.blk 3 → ∀ i c, runCtx s.blk = some (i, c) →
          ((c.phase = .tiles ∨ (c.phase = .prologue ∧ c.ex.round ≠ 0)) ∧ preemptable c = true → ctxOf b i = some { c with
            parkReq := true, parkedByStop := true
            finishTile := decide (c.phase = .tiles) && decide (remaining ≤ bits (rc c.regs 0x005090) 13 0) }) ∧
          (¬(c.phase = .tiles ∨ (c.phase = .prologue ∧ c.ex.round ≠ 0)) ∨ preemptable c = false → ctxOf b i = some c))) ∧
      (s.blk.pwr.stop = true ∨ temp.toNat < therm s.blk 2 → countOf 0x0020CC b = countOf 0x0020CC s.blk) ∧
      (s.blk.pwr.stop = true → temp.toNat + 5 < therm s.blk 2 → b.pwr.divCur = 8 ∧
        (temp.toNat < therm s.blk 3 → ∀ j d, s.blk.running = none → ctxs s.blk = [(j, d)] → Waits s.blk j d →
          ∃ e, ctxOf b j = some e ∧ Resumed d e ∧ b.running = some j))

/-! ## A step: count words, launch, formation, guard -/

/-- MERIDIAN_WORD (R48, R49, R65, R69, R419, R422): a word whose check holds becomes the current count, makes every
entry with a count not above it due, is reported to the meter, with IDLE at a change of period, and one that does not
follow its predecessor is a discontinuity. A word that fails, or one cut by mc_sync, is discarded and counted. The run of
good words that each leaves, that an entry once due stays due, and that a word shows mc_tick present are the model's reading
(log entries 67, 113 and 99). -/
def Obligations.CountWords : Prop :=
  ∀ (s : State) (w : BitVec 72), s.blk.testMode = false → s.blk.pwr.rstLow = false →
    ((crc8 64 (wordCount w) 0).toNat = wordCheck w →
      ∃ b : Block, exec (.meridianWord w) s = .next { s with blk := b } ∧ b.count = some (wordCount w) ∧
        b.launchQ = (s.blk.launchQ.map fun e =>
          if e.dueAt = none ∧ e.count ≤ wordCount w then { e with dueAt := some (wordCount w) } else e) ∧
        (s.blk.count = none → b.goodRun = 1 ∧ b.reg.flags = s.blk.reg.flags ∧
          b.strobes = (strobe (.count (wordCount w) (periodOf s.blk (wordCount w))) s.blk).strobes) ∧
        (∀ n, s.blk.count = some n →
          b.strobes = (if periodOf s.blk n = periodOf s.blk (wordCount w) then
              (strobe (.count (wordCount w) (periodOf s.blk (wordCount w))) s.blk).strobes
            else (strobe .idle (strobe (.count (wordCount w) (periodOf s.blk (wordCount w))) s.blk)).strobes) ∧
          (wordCount w = (n + 1) % 2 ^ 64 → b.goodRun = min 16 (s.blk.goodRun + 1) ∧ b.reg.flags = s.blk.reg.flags) ∧
          (wordCount w ≠ (n + 1) % 2 ^ 64 →
            b.goodRun = 1 ∧ bit (flagWord .mer b) 1 = true ∧ bit (irqStat .mer b) 1 = true)) ∧
        b = { s.blk with
          mcTick := true, count := b.count, launchQ := b.launchQ, goodRun := b.goodRun, strobes := b.strobes
          reg := { s.blk.reg with flags := b.reg.flags, irq := b.reg.irq } }) ∧
    (∀ c : Instr, c = .mcSyncRiseInWord ∨ (c = .meridianWord w ∧ (crc8 64 (wordCount w) 0).toNat ≠ wordCheck w) →
      ∃ b : Block, exec c s = .next { s with blk := b } ∧ b.goodRun = 0 ∧
        b.reg.counts = tmod (fun _ => 0) s.blk.reg.counts 0x004094 (fun n => sat32 (n + 1)) ∧
        b = { s.blk with
          mcTick := true, goodRun := b.goodRun, reg := { s.blk.reg with counts := b.reg.counts, irq := b.reg.irq } })

/-- LAUNCH (R61 to R63, R65, R66, R68, R70, R81): the newest due entry leaves the queue with every older one, which count as
missed. A HALT_CLEAR takes effect first (R340), the boundary has its effects on the block, every page reset that waits among
them (R434), then on the tenants, and the scan runs. Then the entry is skipped for the first condition of R68 that fails, or
a pass starts in a free context with the registers, bank, epochs and arrays in force, its OVERRUN and its published count
(R91), and the batch formed in advance, or where that does not serve it the one formed now (R74 to R76), and a pass that
runs is asked to park, finishing its tile where PREEMPT_FINISH allows. A peer discards a batch formed in advance (R75,
R309). The snapshot for the next formation is taken (R74). A skipped entry leaves a digest of zero and a STEP_END with ATTR
0 (R357, R422). With no entry due, mc_tick absent (R49), or the block unable to launch, nothing happens. The model's choice
are: the order of the boundary's parts, what else a skipped entry leaves, the scan at its boundary, that it counts as the
newest step for a Ridge frame, and that the switches wait where a PREEMPT entry is then skipped (log entries 6, 35, 66, 91,
103, 125); the mode of the snapshot, one refill period for all tenants, a Summit's empty batch going to commit at once,
where a running pass may be asked to park, and by whose PREEMPT_FINISH it ends its tile (34, 36, 59, 114, 115); that a REQ
page reset yields to held pages like a written value (139); which value a register written behind a waiting page reset has
in force meanwhile (173). -/
def Obligations.LaunchStarts : Prop :=
  ∀ (s : State) (remaining : Nat) (m : Measure) (e : LaunchEnt) (q h x z y : Block), s.blk.testMode = false →
    (newestDue s.blk = none ∨ s.blk.mcTick = false ∨ (∃ d, newestDue s.blk = some d ∧ canLaunch d s.blk = false) →
      Does (.launch remaining m) s s.blk) ∧
    (newestDue s.blk = some e → canLaunch e s.blk = true →
      q = missedUp ((s.blk.launchQ.filter fun l => l.dueAt.isSome).length - 1)
        { s.blk with launchQ := s.blk.launchQ.filter fun l => l.dueAt.isNone } →
      h = haltBoundary m q → x = boundary m q → z = tenantBoundary x → y = (if scansRun z then scan (skipReason x).isNone z else z) →
      HaltCleared m q h ∧ BoundaryParts h x ∧ TenantEffects x z ∧ (scansRun z = true → DrainCancels z y) ∧
      (∀ why, skipReason x = some why → Does (.launch remaining m) s
        (irqRaise .sch 1 (strobe (.stepEnd (e.count % 2 ^ 48) false) { y with
          rdg := { y.rdg with seen := some (e.count % 2 ^ 48) }
          step := { y.step with
            outcome := .skipped, reason := why, num := e.count % 2 ^ 48, partialC := false, late := false
            overrun := false, unaligned := false, digest := 0, digestStep := e.count % 2 ^ 48 } }))) ∧
      (∀ i, skipReason x = none → freeCtx y = some i → ∃ (b : Block) (c : Ctx),
        Does (.launch remaining m) s b ∧ ctxOf b i = some c ∧ b.running = some i ∧ b.rdg.newest = some (e.count % 2 ^ 48) ∧
        b.rdg.seen = some (e.count % 2 ^ 48) ∧
        c.num = e.count % 2 ^ 48 ∧ c.count = e.count ∧ c.refine = e.refine ∧ c.regs = y.reg.inForce ∧
        c.bank = y.cfg.active ∧ c.selEp = y.epochs.active.take 4 ∧ c.progEp = y.epochs.active.getD 4 0 ∧
        c.freqEp = y.epochs.active.getD 5 0 ∧ c.nArr = y.nArr ∧ c.unaligned = !aligned y ∧
        c.late = decide (e.count < curCount y) ∧ c.sharded = decide (shardsOf y y.cfg.active ≠ 1) ∧
        (∀ d, e.dueAt = some d → c.overrun = decide (d < curCount y)) ∧ c.preempt = y.running.isSome ∧
        (∀ j d, y.running = some j → ctxOf y j = some d → ctxOf b j = some { d with
          parkReq := true
          finishTile := decide (d.phase = .tiles) && decide (remaining ≤ bits (rc d.regs 0x005090) 13 0) }) ∧
        (c.sharded = false ∨ isSummit y y.cfg.active = true → b.step.pred = c.pred ∧
          (∀ n, y.formed = some n → y.reg.stale = false → n.refine = e.refine → n.penEpoch = y.epochs.active.getD 3 0 →
            c.pred = stepPred (capOf y c) c.batch false ∧ c.batch.seq = n.seq ∧ c.batch.rows = n.rows ∧
            c.batch.classN = n.classN ∧ c.batch.energy = n.energy ∧ ranked c.batch = ranked n) ∧
          (∀ k : Block, k = accountNow (discardFormed y) → (∀ n, y.formed = some n → servesLaunch e.refine y n = false) →
            c.pred = stepPred (capOf y c) c.batch true ∧ ∃ n : Batch,
              BatchOf k (baseNow c.num e.refine k) e.refine (y.epochs.active.getD 3 0) n ∧ c.batch.rows = n.rows ∧
              c.batch.classN = n.classN ∧ c.batch.energy = n.energy ∧ ranked c.batch = ranked n) ∧
          (c.batch.rows ≠ [] → ∃ f, b.forming = some f ∧ f.step = c.num ∧
            f.refine = (match y.launchQ with
              | l :: _ => l.refine
              | [] => e.refine))) ∧
        (c.sharded = true → isSummit y y.cfg.active = false → b.formed = none ∧ ∀ n, y.formed = some n →
          b.pwr.acc = (if y.pwr.accPeriod = n.period then y.pwr.acc - n.energy else y.pwr.acc) ∧
          ∀ r, r ∈ n.reqs → (∀ o, o ∈ n.reqs → o.entry = r.entry → o = r) → (entryAt y r.entry).state = .inflight →
            entryAt b r.entry = { entryAt y r.entry with state := r.prev }) ∧
        ((c.sharded = true ∧ isSummit y y.cfg.active = false) ∨ c.batch.rows ≠ [] → c.phase = .launching) ∧
        (c.sharded = false ∨ isSummit y y.cfg.active = true → c.batch.rows = [] → c.phase = .commit)))

/-- BATCH_FORM (R22, R74, R76, R252, R258, R259, R262, R263, R265, R404, R411): from stage 5 of the step launched last, and
once, a batch of the entries considered, ranked, admitted and laid out as R76 says is formed in the mode that its boundary's
snapshot took, which is the next queued entry's by LaunchStarts (the model's reading, log entry 34). It is numbered after
the last, its energy by the corrections of the forming boundary and added to the account, and every entry it holds is
INFLIGHT. Each request takes the pages it needs, the lowest free numbers first, their numbers are written at PLIST_ADDR +
4i, and the descriptor's row list is asked for, of a batch with no row its header. While a batch stands formed, or without a
step to form after, nothing happens (log entry 6). -/
def Obligations.BatchForms : Prop :=
  ∀ (s : State), Live s.blk →
    (∀ f, s.blk.forming = some f → s.blk.formed = none → s.blk.fault = false → stageFive s.blk f = true →
      ∃ (b : Block) (n : Batch), Does .batchForm s b ∧ b.formed = some n ∧ b.forming = none ∧ b.reg.stale = false ∧
        BatchOf s.blk f f.refine (expectedPen f) n ∧ n.seq = (s.blk.batchSeq + 1) % 2 ^ 32 ∧ b.batchSeq = n.seq ∧
        n.period = s.blk.pwr.accPeriod ∧
        (∀ (k : Cand) (code : Nat), f.entries.Pairwise (fun x y => x.1 ≠ y.1) →
          k ∈ candidates s.blk f f.refine (expectedPen f) → k.fault = some code →
          (entryAt b k.i).state = .fault ∧ (entryAt b k.i).efault = code) ∧
        b.pwr = { s.blk.pwr with acc := s.blk.pwr.acc + n.energy } ∧
        (f.entries.Pairwise (fun x y => x.1 ≠ y.1) →
          PagesTaken f (chosen s.blk f f.refine (expectedPen f)).cands s.blk b) ∧
        (∃ x, b.mem.xfers.getLast? = some x ∧ x.write = true ∧ x.kind = 3 ∧ x.tenant = none ∧ x.rights = .system ∧
          (n.rows ≠ [] → x.purpose = .descRows n.seq ∧ x.addr = descSlot (rf s.blk) n.seq + 64 ∧
            x.len = 16 * n.rows.length ∧ x.data = n.rows.flatMap (rowBytes n.reqs)) ∧
          (n.rows = [] → x.purpose = .descHead n.seq ∧ x.addr = descSlot (rf s.blk) n.seq ∧ x.len = 64 ∧
            x.data = headBytes n 0)) ∧
        (∀ r, r ∈ n.reqs → (entryAt b r.entry).state = .inflight) ∧ b.ctx0 = s.blk.ctx0 ∧ b.ctx1 = s.blk.ctx1 ∧
        b.launchQ = s.blk.launchQ ∧ b.stores = s.blk.stores ∧ b.host = s.blk.host) ∧
    (s.blk.forming = none ∨ s.blk.formed.isSome = true → Does .batchForm s s.blk)

/-- The guard (R70 to R72, R81, R402): once T_launch, a drain and a repair's ramp slot have ended, a pass with the guard
enabled reads its guard object, and again at each poll; with it disabled the pass goes on to its prologue at once. A guard
that has not passed in time ends the step as GUARD_TIMEOUT, with its interrupt: no tenant is charged, every request returns
unchanged to its previous state, and a parked pass resumes (R72, R82). -/
def Obligations.GuardChecks : Prop :=
  ∀ (s : State) (i : Nat) (c : Ctx), Live s.blk → s.blk.fault = false → runCtx s.blk = some (i, c) →
    (c.phase = .launching → draining s.blk = false → rowsPowering s.blk c = false → c.ex.batchSeen = true →
      (guardEn c = true → Does .guardCheckBegin s
        (request false (pairAt (rc c.regs) 0x0050A0) 8 [] 5 none .system (some i) (.guard i)
          (setCtx i (some { c with phase := .guard }) s.blk))) ∧
      (guardEn c = false → ∃ (b : Block) (d : Ctx), Does .guardCheckBegin s b ∧ ctxOf b i = some d ∧
        (d.phase = .prologue ∨ d.phase = .tiles) ∧ d.num = c.num ∧ d.batch = c.batch ∧
        b = { s.blk with ctx0 := b.ctx0, ctx1 := b.ctx1, running := b.running, mem := b.mem })) ∧
    (c.phase = .guard → c.parkReq = false → guardAsked i s.blk = false → Does .guardPoll s
      (request false (pairAt (rc c.regs) 0x0050A0) 8 [] 5 none .system (some i) (.guard i) s.blk)) ∧
    (∀ m, (c.phase = .launching ∨ c.phase = .guard) → guardEn c = true → c.batch.rows ≠ [] →
      ∃ b : Block, Does (.guardTimeout m) s b ∧ ctxOf b i = none ∧ b.step.outcome = .guardTimeout ∧ b.step.num = c.num ∧
        bit (irqStat .sch b) 2 = true ∧ b.rdg.ended = s.blk.rdg.ended ++ [c.num] ∧ b.tenants = s.blk.tenants ∧
        b.counters = s.blk.counters ∧ b.host = s.blk.host ∧ b.stores = s.blk.stores ∧
        (∀ r, r ∈ c.batch.reqs → (∀ o, o ∈ c.batch.reqs → o.entry = r.entry → o = r) → r.prev ≠ .done →
          (entryAt s.blk r.entry).state = .inflight →
          entryAt b r.entry = { entryAt s.blk r.entry with state := r.prev }) ∧
        (∀ j d, j ≠ i → Waits s.blk j d → s.blk.pwr.stop = false → ∃ e, ctxOf b j = some e ∧ Resumed d e ∧ b.running = some j))

/-- Memory responses (R34, R40 to R43, R360, R362, R363, R374): the last beat of a read in good order ends its access and
hands its data to the transfer, counted in CORRECTED where it was a retry. Beats of wrong parity are counted, and the access
is issued again, as it is after an error response of a weight or row read, twice at most; otherwise the read has failed with
what its transfer's purpose names. A write's OKAY ends one beat; a write's error response is counted, never retried, and
fails likewise. A response to no outstanding access is MEM_STRAY, an access that outlives TIMEOUT is MEM_TIMEOUT, each with
port and tag in FAULT_ADDR, bit 8 telling the direction of the second. That any code but OKAY is an error, and that a
timeout of no outstanding access does nothing, are the model's reading (log entries 27 and 6), and so is that a failure records
the physical address of the access (log entry 130). -/
def Obligations.MemoryAnswers : Prop :=
  ∀ (s : State) (port tag : Nat) (a : Access) (x : Xfer), Live s.blk → s.blk.fault = false →
    (accessAt s.blk port tag false = some a → (s.blk.mem.xfers.find? fun y => y.id = a.xfer) = some x →
      a.tries = 0 → a.badErr = none → a.badPar = none → ∀ beats : List Beat, beats ≠ [] → beats.all beatOk = true →
      (a.recvd.length + beats.length = a.beats → Does (.memReadResponse port tag beats true 0) s
        (keepXfer { x with ended := x.ended + a.beats, got := putBeats x.got a.off (a.recvd ++ beats.map (·.data)) }
          (dropAccess a s.blk))) ∧
      (a.recvd.length + beats.length ≤ a.beats → Does (.memReadResponse port tag beats false 0) s
        (putAccess { a with recvd := a.recvd ++ beats.map (·.data) } s.blk))) ∧
    (accessAt s.blk port tag false = some a → (s.blk.mem.xfers.find? fun y => y.id = a.xfer) = some x →
      a.recvd = [] → a.badErr = none → a.badPar = none → ∀ beats : List Beat, beats.length = a.beats →
      (beats.all beatOk = true → 0 < a.tries → Does (.memReadResponse port tag beats true 0) s
        (keepXfer { x with ended := x.ended + a.beats, got := putBeats x.got a.off (beats.map (·.data)) }
          (correctedUp port (dropAccess a s.blk)))) ∧
      (beats.all beatOk = true → ∀ err : BitVec 2, err ≠ 0 →
        (a.tries < 2 → x.kind ≤ 1 → Does (.memReadResponse port tag beats true err) s
          (keepXfer { x with redo := x.redo ++ [(a.off, a.beats, a.tries + 1)] } (dropAccess a (errRspUp port s.blk)))) ∧
        (2 ≤ a.tries ∨ 2 ≤ x.kind → Does (.memReadResponse port tag beats true err) s
          (keepXfer { x with ended := x.ended + a.beats, failed := true }
            (accessFailed x a.phys (dropAccess a (errRspUp port s.blk)))))) ∧
      (∀ (good rest : List Beat) (bad : Beat), beats = good ++ bad :: rest → good.all beatOk = true → beatOk bad = false →
        (a.tries < 2 → Does (.memReadResponse port tag beats true 0) s
          (keepXfer { x with redo := x.redo ++ [(a.off, a.beats, a.tries + 1)] }
            (dropAccess a (parErrUp port (beats.filter fun b => !beatOk b).length s.blk)))) ∧
        (2 ≤ a.tries → Does (.memReadResponse port tag beats true 0) s
          (keepXfer { x with ended := x.ended + a.beats, failed := true }
            (accessFailed x (a.phys + 64 * good.length)
              (dropAccess a (parErrUp port (beats.filter fun b => !beatOk b).length s.blk))))))) ∧
    (accessAt s.blk port tag true = some a →
      (s.blk.mem.xfers.find? fun y => y.id = a.xfer) = some x →
      Does (.memWriteResponse port tag 0) s (keepXfer { x with ended := x.ended + 1 } (dropAccess a s.blk)) ∧
      (∀ err : BitVec 2, err ≠ 0 → Does (.memWriteResponse port tag err) s
        (keepXfer { x with ended := x.ended + 1, failed := true }
          (accessFailed x a.phys (dropAccess a (errRspUp port s.blk)))))) ∧
    (∀ c : Instr, (∃ beats last err, c = .memReadResponse port tag beats last err ∧ accessAt s.blk port tag false = none) ∨
        (∃ err, c = .memWriteResponse port tag err ∧ accessAt s.blk port tag true = none) →
      ∃ b : Block, Does c s b ∧ b.fault = true ∧ b.faultCode = 0x01 ∧ b.faultAddr = port + 4 * tag ∧ b.ctx0 = none ∧
        b.ctx1 = none ∧ b.running = none ∧ b.mem.xfers = []) ∧
    (∀ w : Bool, (accessAt s.blk port tag w = some a →
        ∃ b : Block, Does (.memTimeout port tag w) s b ∧ b.fault = true ∧ b.faultCode = 0x02 ∧
          b.faultAddr = port + 4 * tag + (if w then 256 else 0) ∧ b.ctx0 = none ∧ b.ctx1 = none ∧ b.running = none) ∧
      (accessAt s.blk port tag w = none → Does (.memTimeout port tag w) s s.blk))

/-- A row and an adapter before the arrays (R99 to R105, R117, R125, R126): a fetched row of the pass the arrays work for is
normalised and quantised into the activation buffer, or removed and counted where it is not finite; the adapter whose
weights are in, with the chunk's rows, runs over every row of the chunk that names it and leaves the list. A panel of it
with wrong parity is counted, absent and fetched again; a run abandoned for the parity of an array or of an activation row,
which is then fetched again, is counted, and the third in succession is fatal, in a streak of its own (log entry 47). Cycles
that such a run freezes count (R115), by a DELIVERY_BLOCK that delivers nothing (log entry 100). Where no row or adapter
waits nothing happens (the model's choice, log entry 6). -/
def Obligations.RowsAndAdapters : Prop :=
  ∀ (s : State) (i : Nat) (c : Ctx), Live s.blk → workCtx s.blk = some (i, c) → mayWork c = true →
    (∀ (r : Nat) (p : PRow) (bs : List Byte), c.rows[r]? = some p → p.fetched = some bs → p.ready = false →
      p.removed = 0 →
      (∀ xs : List Val, xs = rowElems (capInFmt c) (bankH s.blk c.bank) bs →
        (∀ ys, normValues (capCompat c) (capRms c) (bankEps s.blk c.bank) (gains s.blk c.bank) xs = some ys →
          Does (.rowNormalised r) s (advanceRepair i (countUp 0x007084 (quant (ctxAct c) ys).2.2
            (setCtx i (some { c with rows := c.rows.set r { p with
              ready := true, adapted := false, act := (quant (ctxAct c) ys).1, scales := (quant (ctxAct c) ys).2.1
              stats := if capStats c && c.ex.round = 0 then some (rowStats xs) else p.stats } }) s.blk)))) ∧
        (normValues (capCompat c) (capRms c) (bankEps s.blk c.bank) (gains s.blk c.bank) xs = none →
          Does (.rowNormalised r) s (advanceRepair i (countUp 0x007088 1
            (setCtx i (some { c with rows := c.rows.set r (lostRow 0x08 p) }) s.blk)))))) ∧
    (∀ r : Nat, (∀ p, c.rows[r]? = some p → p.fetched = none ∨ p.ready = true ∨ p.removed ≠ 0) →
      Does (.rowNormalised r) s s.blk) ∧
    (∀ t slot w rest, c.adapters = (t, slot, some w) :: rest → c.adpAbsent = [] → chunkIn s.blk c = true →
      Does .adapterRun s (advanceRepair i (modCtx i (fun d => { d with adapters := rest, adpAsked := false, adpStreak := 0 })
        ((chunkIdx s.blk c).foldl (fun b r => adaptOne i t slot w r b) s.blk))) ∧
      (∀ (r : Nat) (k : Block), RowAdapted i t slot w r k (adaptOne i t slot w r k)) ∧
      (∀ (r : Nat) (p : PRow), c.rows[r]? = some p →
        (adapterReads s.blk c t slot r = true → c.adpStreak < 2 → ∃ (b : Block) (d : Ctx),
          Does (.tileComplete (.adapter (.activation r))) s b ∧ ctxOf b i = some d ∧ d.adpStreak = c.adpStreak + 1 ∧
          d.rows = c.rows.set r (awayRow p) ∧ bit (irqStat (.ary 0) b) 1 = true ∧
          ∀ e, rowEntry c r = some e → (breqOf c.batch e).isSome = true → s.blk.fault = false →
            b.mem.xfers.length = s.blk.mem.xfers.length + 1) ∧
        (adapterReads s.blk c t slot r = true → 2 ≤ c.adpStreak → s.blk.fault = false → ∃ b : Block,
          Does (.tileComplete (.adapter (.activation r))) s b ∧ b.fault = true ∧ b.faultCode = 0x03 ∧ b.faultAddr = 0) ∧
        (adapterReads s.blk c t slot r = false → Does (.tileComplete (.adapter (.activation r))) s s.blk)) ∧
      (∀ n : Nat, s.blk.fault = false →
        n * panelBytes (adpFmt (adpDesc c.regs t slot).fmt) <
          adpBytes (adpFmt (adpDesc c.regs t slot).fmt) (adpDesc c.regs t slot).r (bankH s.blk c.bank) →
        ∃ b : Block, Does (.tileComplete (.adapter (.panel n))) s b ∧ ctxOf b i = some { c with adpAbsent := [n] } ∧
          b.mem.xfers.length = s.blk.mem.xfers.length + 1 ∧
          bit (irqStat (.ary (adapterArray s.blk c (adpDesc c.regs t slot).r n)) b) 0 = true) ∧
      (∀ n : Nat, s.blk.arrays.contains n = true →
        (c.adpStreak < 2 → Does (.tileComplete (.adapter (.array n))) s
          (setCtx i (some { c with adpStreak := c.adpStreak + 1 }) (replayUp n s.blk))) ∧
        (2 ≤ c.adpStreak → s.blk.fault = false → ∃ b : Block, Does (.tileComplete (.adapter (.array n))) s b ∧
          b.fault = true ∧ b.faultCode = 0x03 ∧ b.faultAddr = n))) ∧
    (∀ frozen freeze bad, c.phase = .prologue → c.adapters ≠ [] →
      Does (.deliveryBlock frozen freeze bad) s (countFreeze i frozen freeze s.blk)) ∧
    (c.adapters = [] ∨ c.adpAbsent ≠ [] ∨ chunkIn s.blk c = false → Does .adapterRun s s.blk)

/-- The tile phase (R80, R81, R108, R110, R113, R115, R117, R376): a delivery block enters a half of the result buffer with
the scores of the tile's rows; a panel with wrong parity is marked absent and nothing is delivered; a complete tile puts
its working copy in place and the pass goes on in tile order, or to its decision; a mismatch of the working copy is counted
and reruns the tile; a tile abandoned for the parity of an array, or of an activation row, which is then fetched again, starts
again, from its beginning, and the third in succession is fatal, between which a park or a mismatch counts for nothing, which is
the model's reading (log entry 47). Frozen cycles
count also where the block they froze is not delivered or folded, and a fold with no block does no more (the model's choice,
log entries 100 and 6). A mismatch of the present row group's stored state is counted and rebuilds that group from its first
column tile; the one that begins a rebuild does not count in it, two more begin it again and the third is fatal, which is the
model's reading (log entry 82), as is one in a region that nothing rebuilds. One reported of a group whose state is not being
read does nothing (log entry 6). -/
def Obligations.TilePhase : Prop :=
  ∀ (s : State) (i : Nat) (c : Ctx), Live s.blk → workCtx s.blk = some (i, c) → c.phase = .tiles → mayWork c = true →
    (∀ frozen freeze w, c.cbNext < tileBlocks c → c.halves.length < 2 → tileReady s.blk c = true →
      blockHere c c.tileT (weightGroup s.blk c) c.cbNext = some w →
      (∃ (b : Block) (d : Ctx), Does (.deliveryBlock frozen freeze none) s b ∧ ctxOf b i = some d ∧
        d.halves = c.halves ++ [⟨c.cbNext, blockScores s.blk c w⟩] ∧ d.cbNext = c.cbNext + 1 ∧
        d.stall = c.stall + frozen ∧ d.rows = c.rows ∧ d.work = c.work ∧
        (streamed s.blk c = false → d.weights = c.weights) ∧
        b = { s.blk with ctx0 := b.ctx0, ctx1 := b.ctx1, mem := b.mem, reg := { s.blk.reg with counts := b.reg.counts } }) ∧
      (∀ p : BadPanel, p.q / c.nArr = c.cbNext → ∃ (b : Block) (d : Ctx),
        Does (.deliveryBlock frozen freeze (some p)) s b ∧ ctxOf b i = some d ∧ d.halves = c.halves ∧
        d.cbNext = c.cbNext ∧ (∀ v, v ∈ d.weights → v.t = c.tileT → v.g = weightGroup s.blk c → v.cb = c.cbNext →
          (p.q % c.nArr, p.u) ∈ v.absent) ∧
        bit (irqStat (.ary (s.blk.arrays.getD (p.q % c.nArr) 0)) b) 0 = true)) ∧
    (∀ frozen freeze bad, blockNow s.blk c = none →
      Does (.deliveryBlock frozen freeze bad) s (countFreeze i frozen freeze s.blk)) ∧
    (∀ f h rest, c.halves = h :: rest → Does (.deliveryFold f) s
      ((List.range h.scores.length).foldl (fun b k => foldRow i k h.cb (h.scores.getD k []) (h.scores.getD (k + 1) []) b)
        (countUp (reg .sel 0x090) f
          (setCtx i (some { c with halves := rest, cbFold := h.cb + 1, stall := c.stall + f }) s.blk)))) ∧
    (∀ (j cb : Nat) (raw odd : List Word) (k : Block), LaneLeaves i j cb raw odd k (foldRow i j cb raw odd k)) ∧
    (∀ f, c.halves = [] → Does (.deliveryFold f) s
      (countUp (reg .sel 0x090) f (setCtx i (some { c with stall := c.stall + f }) s.blk))) ∧
    (c.cbNext = tileBlocks c → c.halves = [] → c.parkReq = false → c.sharded = false →
      ∃ (b : Block) (d : Ctx), Does (.tileComplete .clean) s b ∧ ctxOf b i = some d ∧
        (∀ r p, c.rows[r]? = some p → ∃ v, d.rows[r]? = some v ∧ v.removed = p.removed ∧ v.stats = p.stats ∧
          (∀ (k : Nat) (z : Sel), (tileIdx s.blk c)[k]? = some r → (tileIdx s.blk c).Nodup → c.work[k]? = some z →
            (c.ex.round = 0 → v.sel = z ∧ v.win = p.win) ∧ (c.ex.round ≠ 0 → v.win = z.heap ∧ v.sel = p.sel)) ∧
          (r ∉ tileIdx s.blk c → v.sel = p.sel ∧ v.win = p.win)) ∧
        (nextTile s.blk c = none → d.phase = .decide ∧ b = setCtx i (some d) s.blk) ∧
        (∀ t g, nextTile s.blk c = some (c.chunk, t, g) → d.phase = .tiles ∧ d.chunk = c.chunk ∧ d.tileT = t ∧
          d.tileG = g ∧ d.cbNext = 0 ∧ d.halves = []) ∧
        (∀ k t g, nextTile s.blk c = some (k, t, g) → k ≠ c.chunk → d.chunk = k)) ∧
    (∀ (r : Nat) (p : PRow), c.rows[r]? = some p →
      (r ∈ tileIdx s.blk c → (rowEntry c r).isSome = true → c.streak < 2 → ∃ (b : Block) (d : Ctx),
        Does (.tileComplete (.activation r)) s b ∧ ctxOf b i = some d ∧ d.streak = c.streak + 1 ∧ d.cbNext = 0 ∧
        d.halves = [] ∧ d.rows = c.rows.set r (awayRow p) ∧ bit (irqStat (.ary 0) b) 1 = true) ∧
      (r ∈ tileIdx s.blk c → (rowEntry c r).isSome = true → 2 ≤ c.streak → s.blk.fault = false → ∃ b : Block,
        Does (.tileComplete (.activation r)) s b ∧ b.fault = true ∧ b.faultCode = 0x03 ∧ b.faultAddr = 0) ∧
      (r ∉ tileIdx s.blk c ∨ rowEntry c r = none → Does (.tileComplete (.activation r)) s s.blk)) ∧
    (∃ (b : Block) (d : Ctx), Does (.tileComplete .working) s b ∧ ctxOf b i = some d ∧ d.streak = c.streak ∧
      d.cbNext = 0 ∧ d.halves = [] ∧ d.rows = c.rows ∧ d.work = (tileIdx s.blk c).map (storedSel c) ∧
      countOf 0x008094 b = sat32 (countOf 0x008094 s.blk + 1)) ∧
    (∀ n : Nat, s.blk.arrays.contains n = true →
      (c.streak < 2 → ∃ (b : Block) (d : Ctx), Does (.tileComplete (.array n)) s b ∧ ctxOf b i = some d ∧
        d.streak = c.streak + 1 ∧ d.cbNext = 0 ∧ d.halves = [] ∧ d.rows = c.rows ∧
        bit (irqStat (.ary n) b) 1 = true) ∧
      (2 ≤ c.streak → s.blk.fault = false → ∃ b : Block, Does (.tileComplete (.array n)) s b ∧ b.fault = true ∧
        b.faultCode = 0x03 ∧ b.faultAddr = n)) ∧
    (∀ (off : DWord), s.blk.fault = false →
      (c.rebuild = none → ∃ (b : Block) (d : Ctx), Does (.tileComplete (.stored c.tileG off)) s b ∧ ctxOf b i = some d ∧
        d.tileT = 0 ∧ d.tileG = c.tileG ∧ d.rebuild = some (c.tileT, false) ∧ d.rebuilds = 0 ∧ d.cbNext = 0 ∧
        d.halves = [] ∧ countOf (reg .sel 0x098) b = sat32 (countOf (reg .sel 0x098) s.blk + 1) ∧
        (∀ r p, r ∈ tileIdx s.blk c → d.rows[r]? = some p →
          (c.ex.round = 0 → p.sel = Sel.empty) ∧ (c.ex.round ≠ 0 → p.win = []))) ∧
      (∀ x, c.rebuild = some x → c.rebuilds < 2 → ∃ (b : Block) (d : Ctx),
        Does (.tileComplete (.stored c.tileG off)) s b ∧ ctxOf b i = some d ∧ d.tileT = 0 ∧ d.tileG = c.tileG ∧
        d.rebuild = some x ∧ d.rebuilds = c.rebuilds + 1 ∧ d.cbNext = 0 ∧ d.halves = [] ∧
        countOf (reg .sel 0x098) b = sat32 (countOf (reg .sel 0x098) s.blk + 1) ∧
        (∀ r p, r ∈ tileIdx s.blk c → d.rows[r]? = some p →
          (c.ex.round = 0 → p.sel = Sel.empty) ∧ (c.ex.round ≠ 0 → p.win = []))) ∧
      (∀ g, g ≠ c.tileG → Does (.tileComplete (.stored g off)) s s.blk) ∧
      (∀ x, c.rebuild = some x → 2 ≤ c.rebuilds → ∃ b : Block, Does (.tileComplete (.stored c.tileG off)) s b ∧
        b.fault = true ∧ b.faultCode = 0x04 ∧ b.faultAddr = off.toNat) ∧
      (∃ b : Block, Does (.tileComplete (.region off)) s b ∧ b.fault = true ∧ b.faultCode = 0x04 ∧
        b.faultAddr = off.toNat))

/-- Parking (R29, R81, R82, R409): once drained, a pass asked to park gives up its working copy and, the weight stage being
the other pass's, what it has fetched into it, an adapter's weights among it. While STOP
is set or another pass runs it waits; otherwise it resumes at once, in its tile phase at the tile it gave up. While the tile
is being finished nothing happens yet (the model's choice, log entry 6). That a pass past its last tile parks and resumes where
it stood is the model's choice too (log entry 114). -/
def Obligations.PassParks : Prop :=
  ∀ (s : State) (i : Nat) (c : Ctx), Live s.blk →
    ((ctxs s.blk).find? fun x => x.2.parkReq && !x.2.parked) = some (i, c) →
    (c.finishTile = false → (s.blk.pwr.stop = true ∨ ∃ j, j ≠ i ∧ s.blk.running = some j) →
      ∃ b : Block, Does .passPark s b ∧
        ctxOf b i = some { c with
          parked := true, everParked := true, parkReq := false, work := [], halves := [], weights := [], wAsked := []
          adpAsked := false, adpAbsent := [], cbNext := 0, cbFold := 0
          adapters := c.adapters.map (fun a => (a.1, a.2.1, none)) } ∧
        b.running = (if s.blk.running = some i then none else s.blk.running) ∧
        (∀ x, x ∈ b.mem.xfers → fetchCtx x ≠ some i) ∧
        b = { s.blk with ctx0 := b.ctx0, ctx1 := b.ctx1, running := b.running, mem := b.mem }) ∧
    (c.finishTile = false → s.blk.pwr.stop = false → (s.blk.running = none ∨ s.blk.running = some i) →
      ctxs s.blk = [(i, c)] → (c.sharded && s.blk.rdg.halt) = false → ∃ (b : Block) (d : Ctx), Does .passPark s b ∧
        ctxOf b i = some d ∧ Resumed c d ∧ d.everParked = true ∧ b.running = some i) ∧
    (c.finishTile = true → Does .passPark s s.blk)

/-- The decision (R200, R204 to R207, R227 to R248, R324) and the test draw (R216): an unsharded pass past its last tile, or a
Summit with the exchange of the pass or round in, decides every request on the rows' decisions, its plan naming the tokens,
records and stops that planGen, planChunk and planRefine say, and begins its commit where no row is left open; else it
opens the next rescan round on the rows left open, whose tiles begin. The cycles of a round are stall. A Summit first pulls
its peers; a peer counts the cycles of a round once and waits. A test draw permutes the counter and key registers once for
each GEN_GO, which sets GEN_BUSY and nothing else; while SMP's clock is removed it waits (R395), and while the select domain
is stopped (R380). That it may run after the
last tile too, reads its registers as it runs, and does nothing without a GO is the model's reading (log entries 90, 126 and
6). -/
def Obligations.DecisionStands : Prop :=
  ∀ (s : State), Live s.blk →
    (∀ (i : Nat) (c : Ctx) (n : Nat), workCtx s.blk = some (i, c) → c.phase = .decide → mayWork c = true →
      (c.sharded = false ∨ (isSummit s.blk c.bank = true ∧ c.ex.pulling = false ∧ c.ex.toPull = [] ∧
          (c.ex.round ≠ 0 ∨ c.ex.parts ≠ [])) →
        ∀ (y : Ctx) (u : List Nat), (y, u) = (if c.ex.round = 0 then (c, []) else roundTaken s.blk c) →
        (openRows y u (decideAll s.blk y) = [] →
          ∃ (b : Block) (d : Ctx), Does (.decision n) s b ∧ ctxOf b i = some d ∧ d.phase = .commit ∧
          d.batch = c.batch ∧ d.reqs.length = c.reqs.length ∧
          (∀ (k : Nat) (p : PReq) (q : BReq), c.reqs[k]? = some p → breqOf c.batch p.entry = some q →
            d.reqs[k]? = some { p with plan := some (planOf s.blk y q p (decideAll s.blk y)) }) ∧
          d.stall = (if c.ex.round = 0 then c.stall else c.stall + n) ∧
          (c.ex.round = 0 → overRows (decideAll s.blk y) ≠ [] → bit (irqStat .smp b) 0 = true) ∧
          (c.ex.round ≠ 0 → countOf 0x009088 b = sat32 (countOf 0x009088 s.blk + n)) ∧
          b = { s.blk with
            ctx0 := b.ctx0, ctx1 := b.ctx1, reg := { s.blk.reg with counts := b.reg.counts, irq := b.reg.irq } }) ∧
        (openRows y u (decideAll s.blk y) ≠ [] →
          ∃ (b : Block) (d : Ctx), Does (.decision n) s b ∧ ctxOf b i = some d ∧
          (d.phase = .prologue ∨ d.phase = .tiles) ∧ d.batch = c.batch ∧ d.ex.round = c.ex.round + 1 ∧
          d.ex.rescan = (openRows y u (decideAll s.blk y)).map (rescanRow y) ∧ d.ex.walked = y.ex.walked ∧
          d.stall = (if c.ex.round = 0 then c.stall else c.stall + n) ∧
          countOf 0x009084 b = sat32 (countOf 0x009084 s.blk + 1) ∧ b.tenants = s.blk.tenants ∧
          b.entries = s.blk.entries ∧ b.stores = s.blk.stores)) ∧
      (c.sharded = true → isSummit s.blk c.bank = true → c.ex.pulling = false → c.ex.toPull = [] → c.ex.round = 0 →
        c.ex.parts = [] → ∃ (b : Block) (d : Ctx), Does (.decision n) s b ∧ ctxOf b i = some d ∧ d.phase = .decide ∧
          d.ex.toPull = peersOf s.blk c ∧ d.ex.pulling = !(peersOf s.blk c).isEmpty) ∧
      (c.sharded = true → isSummit s.blk c.bank = false →
        (c.ex.round = 0 ∨ c.ex.counted = true → Does (.decision n) s s.blk) ∧
        (c.ex.round ≠ 0 → c.ex.counted = false → ∃ b : Block, Does (.decision n) s b ∧
          ctxOf b i = some { c with stall := c.stall + n, ex := { c.ex with counted := true } } ∧
          countOf 0x009088 b = sat32 (countOf 0x009088 s.blk + n) ∧
          b = { s.blk with ctx0 := b.ctx0, ctx1 := b.ctx1, reg := { s.blk.reg with counts := b.reg.counts } }))) ∧
    (∀ x0 x1 x2 x3 : Word, s.blk.step.genBusy = true → drawFree s.blk = true → gatedOut s.blk .smp = false →
      s.blk.pwr.fastOn = true →
      permute (fun k => wr s.blk (0x009090 + 4 * k)) (fun k => wr s.blk (0x0090A0 + 4 * k)) = (x0, x1, x2, x3) →
      Does .genDraw s { s.blk with step := { s.blk.step with
        genBusy := false, genOut := [x0, x1, x2, x3]
        genGumbel := gumbelBuiltIn (bit (rf s.blk (reg .sfu 0x08C)) 0) x0 } }) ∧
    (s.blk.step.genBusy = false ∨ gatedOut s.blk .smp = true ∨ s.blk.pwr.fastOn = false → Does .genDraw s s.blk) ∧
    (∀ (d : Word) (p : BitVec 4), Accepts s.blk .smp d p → bit d 0 = true →
      Does (.genGo d p) s (okay { s.blk with step := { s.blk.step with genBusy := true } }))

/-- The commit of a request (R85, R88, R239, R245, R248, R268, R287, R294, R420): its ring places are reserved and its
records issued; after their OKAYs the state record is asked for, and INTENT goes to the meter as its first access is put on
its port, none where that is refused (the model's reading, log entry 145); once that has its OKAY, and CONFIRM has gone with
it (TransfersHandOver; the split is the model's choice, log entry 144), the entry takes its new state, the tenant is charged
and the counter write is issued. A full ring is RING_OVERFLOW for the tenant and stops the request; so does a tenant's fault
before the state record. A pass that is parked or drains begins no commit, and one that has begun goes on to its end, which
is the model's choice (log entry 114). Whether a charge takes the tokens discarded after a natural stop, as R287 says, or
not, as R237 does, is a free value (log entry 128). -/
def Obligations.CommitPoints : Prop :=
  ∀ (s : State) (entry i : Nat) (c : Ctx) (q : BReq) (p : PReq) (pl : Plan), Live s.blk → s.blk.fault = false →
    committing s.blk entry = some (i, c, q, p, pl) →
    (p.stage = .idle → held c = false → cancelState q (entryAt s.blk entry) ≠ .silent → inFault s.blk q.tenant = false →
      ∀ (h u z : Nat) (l : List (List Byte)), h = countOf (ringHeadReg q.tenant (hRing q.host)) s.blk →
      u = (h + 2 ^ 32 - (wr s.blk (tenReg q.tenant (0x190 + 0x20 * hRing q.host))).toNat) % 2 ^ 32 →
      z = ringSize (rc c.regs) q.tenant (hRing q.host) →
      l = pl.records.mapIdx (fun k bs => leBytes 4 (((entryAt s.blk entry).seq + k) % 2 ^ 32) ++ bs) →
      (u ≤ z → pl.records.length ≤ z - u → Does (.requestCommitStart entry) s
        (writeCode i c q pl (entryAt s.blk entry).nextSlot (writeRecs i c q h l
          (modReq i entry (fun p => { p with stage := .records, sent := l }) { s.blk with
            reg := { s.blk.reg with
              counts := tset (fun _ => 0) s.blk.reg.counts (ringHeadReg q.tenant (hRing q.host))
                ((h + pl.records.length) % 2 ^ 32) } })))) ∧
      (z < u ∨ z - u < pl.records.length → (tenantAt s.blk q.tenant).clearPend = false →
        ∃ b : Block, Does (.requestCommitStart entry) s b ∧ (tenantAt b q.tenant).faultCode = 1 ∧
          (tenantAt b q.tenant).faultAddr = entry % 16384 + hRing q.host * 16384 ∧
          bit (irqStat (.ten q.tenant) b) 0 = true ∧ b.reg.counts = s.blk.reg.counts ∧
          (∃ d, ctxOf b i = some d ∧ d.partialC = true))) ∧
    (p.stage = .idle → held c = false → cancelState q (entryAt s.blk entry) = .silent →
      Does (.requestCommitStart entry) s (modReq i entry (fun p => { p with stage := .silent }) s.blk)) ∧
    (p.stage = .idle → held c = true → Does (.requestCommitStart entry) s s.blk) ∧
    (p.stage = .records → awaiting (.record i entry) s.blk = false → inFault s.blk q.tenant = false →
      Does (.stateRecordWrite entry) s
        (request true (hSrecAddr q.host + 512 * (entryAt s.blk entry).nextSlot) 512
          (entryImage (hostWords s.blk entry)
            (entryAfter s.blk c q pl (seqAfter (entryAt s.blk entry) pl) true (entryAt s.blk entry)))
          3 (some q.tenant) (.tenant q.tenant) (some i) (.stateRec i entry)
          (modReq i entry (fun p => { p with stage := .stateRec }) s.blk))) ∧
    (∀ (x : Xfer) (k n tries : Nat), x.purpose = .stateRec i entry → p.stage = .stateRec → p.intent = false →
      pagedWaits s.blk x = false → nextPiece x = some (k, n, tries) →
      (∀ a tag : Nat, translate s.blk x (beatAddr x k) = .phys a → portFree s.blk x a n = true →
        freeTag s.blk (a / 256 % 4) x.write = some tag → pumpXfer 1 x s.blk = (takePiece x n,
          issueAccess x k n tries a tag (strobe
            (.intent q.tenant (countsOf q pl).1 (countsOf q pl).2.1 (countsOf q pl).2.2.1 (countsOf q pl).2.2.2)
            (modReq i entry (fun p => { p with intent := true }) s.blk)))) ∧
      (translate s.blk x (beatAddr x k) = .refused → pumpXfer 1 x s.blk =
        ({ takePiece x n with ended := x.ended + n, failed := true }, accessRefused x (beatAddr x k) s.blk))) ∧
    (p.stage = .stateRec → Does (.requestCommitted entry) s s.blk) ∧
    (p.stage = .landed → Does (.requestCommitted entry) s
        (request true (counterAddr (rc c.regs) q.tenant (hCounter q.host)) 8
          (leBytes 8 (seqAfter (entryAt s.blk entry) pl)) 5 (some q.tenant) (.tenant q.tenant) (some i)
          (.counter i entry (hCounter q.host) (seqAfter (entryAt s.blk entry) pl))
          (fairCharge c.regs q.tenant q.rows (charge q.tenant
            ((countsOf q pl).1 + (if q.prev = .cancelling ∨ Config.chargesDropped = true then (countsOf q pl).2.1 else 0) +
              cdiv (countsOf q pl).2.2.1 (2 ^ bits (rc c.regs (tpolReg q.tenant 0)) 19 16))
            (applyCommit c q pl (seqAfter (entryAt s.blk entry) pl) true
              (modReq i entry (fun p => { p with stage := .committed }) s.blk)))))) ∧
    (p.stage = .records → awaiting (.record i entry) s.blk = false → inFault s.blk q.tenant = true →
      Does (.stateRecordWrite entry) s (stopReq i q pl s.blk))

/-- The end of a step (R85 point 4, R86, R94, R268, R287, R357, R405, R422, R466): once every request is resolved those past
their CANCELLED record are discarded, charged and applied without a record, the step's digest stands and its number is
written to the done counter; at the end the context is free, SCH holds the outcome, cycles and number, the account takes the
measured energy, STEP_ROWS and STEP_END go to the meter, and a parked pass resumes (R82); that an EMPTY step sends ATTR 0,
and that a pass asked to park while it commits begins nothing more, is the model's reading (log entries 55 and 114). -/
def Obligations.StepEnds : Prop :=
  ∀ (s : State) (i : Nat) (c : Ctx), Live s.blk → s.blk.fault = false →
    (((ctxs s.blk).find? fun x => x.2.phase = .commit && !held x.2 && x.2.reqs.all resolved) = some (i, c) →
      ∀ (z : Block) (k : Ctx) (d : Word), z = c.reqs.foldl (fun b p => match breqOf c.batch p.entry with
          | some q => silentCommit i c q p b
          | none => b) s.blk →
      ctxOf z i = some k → d = (if c.sharded && !isSummit s.blk c.bank then 0 else digestOf k) →
      Does .doneCounterWrite s
        (request true (pairAt (rc c.regs) 0x0050A8 / 8 * 8) 8 (leBytes 8 c.num) 5 none .system (some i) (.doneCounter i)
          (setCtx i (some { k with phase := .doneWrite })
            { z with step := { z.step with digest := d, digestStep := c.num } })) ∧
      ((∀ r, r ∈ c.reqs → r.stage ≠ .silent) → z = s.blk ∧ k = c) ∧
      ∀ (q : BReq) (p : PReq) (b : Block), SilentLeaves i c q p b (silentCommit i c q p b)) ∧
    (∀ m : Measure, ((ctxs s.blk).find? fun x => x.2.phase = .ending && !held x.2) = some (i, c) →
      ∃ b : Block, Does (.stepDone m) s b ∧ ctxOf b i = none ∧
        b.step.outcome = (if c.batch.rows = [] then .empty else .committed) ∧ b.step.num = c.num ∧
        b.step.cycles = c.pred + c.stall + m.cycles ∧ b.step.stall = ((c.stall + m.cycles : Nat) : Int) ∧
        b.step.partialC = c.partialC ∧ b.step.late = c.late ∧ b.step.overrun = c.overrun ∧
        b.step.digest = (if c.batch.rows = [] then 0 else s.blk.step.digest) ∧ bit (irqStat .sch b) 0 = true ∧
        b.pwr.acc = s.blk.pwr.acc + m.energy - c.batch.energy ∧ b.pwr.lastMeas = m.energy ∧
        b.rdg.ended = s.blk.rdg.ended ++ [c.num] ∧
        b.strobes = (strobe (.stepEnd c.num (decide (c.batch.rows ≠ [])))
          ((tenantRows c.batch).foldl (fun b t => strobe (.stepRows t.1 t.2) b) s.blk)).strobes ∧
        b.tenants = s.blk.tenants ∧ b.stores = s.blk.stores ∧ b.host = s.blk.host ∧
        (∀ j d, j ≠ i → s.blk.running = none ∨ s.blk.running = some i → Waits s.blk j d → s.blk.pwr.stop = false →
          ∃ e, ctxOf b j = some e ∧ Resumed d e ∧ b.running = some j))

/-! ## The request table and the spill directory -/

/-- Commands of a resident entry, pending and not held (R252 to R254, R256, R266, R268, R270): each is acknowledged, has its
effect in a state that takes it, and is counted in BAD_CMDS in another, shown on DONE, where a CANCEL, PAUSE or EXPORT that
the natural stop overtook is neither carried out nor counted. A CANCEL of a privileged tenant makes the entry DONE and
writes its record where the ring has room (R269, R282); with a full ring it is RING_OVERFLOW and SEQ stays (R90, R239). No
scan runs outside RUN and THROTTLE, and a command then waits (R399); that a scan may be taken entry by entry is the model's
choice (log entry 44). -/
def Obligations.EntryCommands : Prop :=
  ∀ (s : State) (i k : Nat) (e a : Entry), Live s.blk → s.blk.fault = false → scansRun s.blk = true → e = entryAt s.blk i →
    cmdPending s.blk i = true → cmdHeld s.blk i = false → hCmd (hostWords s.blk i) = k →
    a = { e with ackSeq := hCmdSeq (hostWords s.blk i), overtaken := false } →
    (k = 0 → Does (.cmdNone i) s (setEntry i a s.blk)) ∧
    (k = 3 → e.state = .ready ∨ e.state = .blocked → tenPriv s.blk e.tenant = false →
      ∃ b : Block, Does (.cmdCancel i) s b ∧
        entryAt b i = { a with state := .cancelling, cancelDone := false, since := 0 } ∧
        (∀ j, j ≠ i → entryAt b j = entryAt s.blk j) ∧ b = { s.blk with entries := b.entries }) ∧
    (k = 3 → e.state = .ready ∨ e.state = .blocked → tenPriv s.blk e.tenant = true →
      ∀ r n u z : Nat, r = hRing (hostWords s.blk i) → n = countOf (ringHeadReg e.tenant r) s.blk →
      u = (n + 2 ^ 32 - (wr s.blk (tenReg e.tenant (0x190 + 0x20 * r))).toNat) % 2 ^ 32 →
      z = ringSize (rf s.blk) e.tenant r →
      (u ≤ z → 1 ≤ z - u → ∃ b : Block, Does (.cmdCancel i) s b ∧
        entryAt b i = { a with state := .done, seq := (e.seq + 1) % 2 ^ 32, pages := [], chunk := none } ∧
        (∀ j, j ≠ i → entryAt b j = entryAt s.blk j) ∧ b.used = s.blk.used.filter (fun g => !e.pages.contains g) ∧
        countOf (ringHeadReg e.tenant r) b = (n + 1) % 2 ^ 32 ∧ b.tenants = s.blk.tenants) ∧
      (z < u ∨ z - u < 1 → (tenantAt s.blk e.tenant).faultCode = 0 → (tenantAt s.blk e.tenant).clearPend = false →
        ∃ b : Block, Does (.cmdCancel i) s b ∧
        entryAt b i = { a with state := .done, seq := e.seq % 2 ^ 32, pages := [], chunk := none } ∧
        (∀ j, j ≠ i → entryAt b j = entryAt s.blk j) ∧ b.used = s.blk.used.filter (fun g => !e.pages.contains g) ∧
        b.reg.counts = s.blk.reg.counts ∧ b.mem = s.blk.mem ∧ (tenantAt b e.tenant).faultCode = 1 ∧
        (tenantAt b e.tenant).faultAddr = i % 16384 + r * 16384 ∧ bit (irqStat (.ten e.tenant) b) 0 = true)) ∧
    (k = 4 → e.state = .ready → ∃ b : Block, Does (.cmdBlock i) s b ∧
      entryAt b i = { a with state := .blocked, blockTime := curCount s.blk } ∧
      (∀ j, j ≠ i → entryAt b j = entryAt s.blk j) ∧ b = { s.blk with entries := b.entries }) ∧
    (k = 5 → e.state = .blocked → tenDraining s.blk e.tenant = false → ∃ b : Block, Does (.cmdUnblock i) s b ∧
      entryAt b i = { a with state := .ready } ∧
      (∀ j, j ≠ i → entryAt b j = entryAt s.blk j) ∧ b = { s.blk with entries := b.entries }) ∧
    (k = 7 → e.state = .ready ∨ e.state = .blocked → e.refine = false → e.chunk = none →
      tenDraining s.blk e.tenant = false → 1 ≤ hPchunkN (hostWords s.blk i) → hPchunkN (hostWords s.blk i) ≤ 512 →
      hPchunkAddr (hostWords s.blk i) % 4 = 0 → ∃ b : Block, Does (.cmdChunk i) s b ∧
      entryAt b i = { a with chunk := some ⟨hPchunkN (hostWords s.blk i), hPchunkAddr (hostWords s.blk i),
        hPchunkPos0 (hostWords s.blk i)⟩ } ∧
      (∀ j, j ≠ i → entryAt b j = entryAt s.blk j) ∧ b = { s.blk with entries := b.entries }) ∧
    (k = 9 → e.state = .done ∨ e.state = .fault → Does (.cmdRelease i) s (freeEntry i (setEntry i a s.blk))) ∧
    (k = 10 → e.state = .fault → ∃ b : Block, Does (.cmdClear i) s b ∧
      entryAt b i = { a with state := .ready, efault := 0 } ∧
      (∀ j, j ≠ i → entryAt b j = entryAt s.blk j) ∧ b = { s.blk with entries := b.entries }) ∧
    (∀ c : Instr, (c, k) ∈ [(Instr.cmdAdmit i, 1), (.cmdImport i, 2), (.cmdCancel i, 3), (.cmdBlock i, 4),
        (.cmdUnblock i, 5), (.cmdPause i, 6), (.cmdExport i, 8)] → e.state = .done →
      (e.overtaken = false ∨ k = 1 ∨ k = 2 ∨ k = 4 ∨ k = 5 → Does c s (badCmd (setEntry i a s.blk))) ∧
      (e.overtaken = true → k = 3 ∨ k = 6 ∨ k = 8 → Does c s (setEntry i a s.blk))) ∧
    (∀ (c : Instr) (p : PState), c ∈ [Instr.cmdNone i, .cmdAdmit i, .cmdImport i, .cmdCancel i, .cmdBlock i, .cmdUnblock i,
        .cmdPause i, .cmdChunk i, .cmdExport i, .cmdRelease i, .cmdClear i] → p ≠ .run → p ≠ .throttle →
      Does c { s with blk := { s.blk with pwr := { s.blk.pwr with state := p } } }
        { s.blk with pwr := { s.blk.pwr with state := p } })

/-- Commands of a resident entry that move data, and the end of a transfer, with the state, fault code, pages and directory
entry it leaves (R255, R257, R258, R264, R269 to R275). That the image EXPORT writes holds the state the entry leaves is the
model's reading of R274 and R275 (log entry 141), and so is which fault comes first (142). A failed ADMIT or IMPORT leaves
the settings alone and takes the copies of its F fields only, which is the model's reading (log entry 97). ADMIT reads its
history; IMPORT reads its record and then its history. PAUSE writes the image and the history to the spill slot and makes the
directory entry with its expiry period, of which word 3 shows the low half; meanwhile both are MOVING, which are the
model's readings (log entries 161 and 162). That a scan may be taken entry by entry (log entry 44), how the state
is set when a transfer has ended (log entries 42 and 43), and that TRANSFER_DONE without an ended transfer does nothing (log
entry 6), are the model's choice. -/
def Obligations.EntryTransfers : Prop :=
  ∀ (s : State) (i k : Nat) (e a : Entry) (h : List Word) (b0 n m0 : Block), Live s.blk → s.blk.fault = false →
    scansRun s.blk = true → e = entryAt s.blk i → h = hostWords s.blk i →
    a = { e with ackSeq := hCmdSeq h, overtaken := false } → b0 = setEntry i a s.blk →
    n = setEntry i (admitted h (hCmdSeq h) e.spillIdx) b0 →
    m0 = setEntry i { claimed h a with state := .moving, autoCancel := false, arrive := none } b0 →
    (cmdPending s.blk i = true → cmdHeld s.blk i = false → hCmd h = k →
      (∀ c : Instr, (c = .cmdAdmit i ∧ k = 1) ∨ (c = .cmdImport i ∧ k = 2) → e.state = .free → admitOk b0 i h = false →
        Does c s (entryFault i 0x01 (setEntry i (claimed h a) b0))) ∧
      (k = 1 → e.state = .free → admitOk b0 i h = true →
        (histBytes h = none ∨ (histBytes h = some 0 ∧ histBuild h [] = none) →
          Does (.cmdAdmit i) s (entryFault i 0x08 n)) ∧
        (∀ x, histBytes h = some 0 → histBuild h [] = some x → ∃ b : Block,
          Does (.cmdAdmit i) s b ∧
          entryAt b i = { admitted h (hCmdSeq h) e.spillIdx with state := .ready, hist := x } ∧
          (∀ j, j ≠ i → entryAt b j = entryAt s.blk j) ∧ b = { s.blk with entries := b.entries }) ∧
        (∀ m, histBytes h = some (m + 1) → Does (.cmdAdmit i) s
          (request false (hHistAddr h) (m + 1) [] 4 (some (hTenant h)) (.tenant (hTenant h)) none (.hist i) n))) ∧
      (k = 2 → e.state = .free → admitOk b0 i h = true →
        (histBytes h = none → Does (.cmdImport i) s (entryFault i 0x08 (setEntry i (claimed h a) b0))) ∧
        (histBytes h = some 0 → Does (.cmdImport i) s
          (request false (hXferAddr h) 512 [] 4 (some (hTenant h)) (.tenant (hTenant h)) none (.importRec i) m0)) ∧
        (∀ m, histBytes h = some (m + 1) → Does (.cmdImport i) s
          (request false (hHistAddr h) (m + 1) [] 4 (some (hTenant h)) (.tenant (hTenant h)) none (.hist i)
            (request false (hXferAddr h) 512 [] 4 (some (hTenant h)) (.tenant (hTenant h)) none (.importRec i) m0)))) ∧
      (k = 6 → e.state = .ready ∨ e.state = .blocked →
        (freeDirIdx s.blk = none → Does (.cmdPause i) s (spillFull b0)) ∧
        (∀ d : Nat, freeDirIdx s.blk = some d → ∃ (b : Block) (x : Xfer), Does (.cmdPause i) s b ∧
          entryAt b i = { a with state := .moving, spillIdx := d, arrive := none } ∧
          (∀ j, j ≠ i → entryAt b j = entryAt s.blk j) ∧
          dirAt b d = { DirEntry.freed with
            state := .moving, ackSeq := (dirAt s.blk d).ackSeq, tenant := e.tenant, reqId := e.reqId
            word3 := w32 (curPeriod s.blk + hTtl h), counter := e.counter, pages := e.pages, arrive := some .paused
            expiry := if hTtl h = 0 then none else some (curPeriod s.blk + hTtl h)
            copies := (e.refP, e.refT, e.depthInit) } ∧
          (∀ j, j ≠ d → dirAt b j = dirAt s.blk j) ∧ b.mem.xfers = s.blk.mem.xfers ++ [x] ∧ x.purpose = .spill i d ∧
          x.write = true ∧ x.addr = spillSlot s.blk d ∧ x.len = 2048 ∧ x.kind = 4 ∧ x.tenant = some e.tenant ∧
          x.data = entryImage h a ++ histImage e.hist ∧
          b = { s.blk with entries := b.entries, dir := b.dir, mem := b.mem })) ∧
      (k = 8 → e.state = .ready ∨ e.state = .blocked → ∃ b : Block, Does (.cmdExport i) s b ∧
        entryAt b i = { a with state := .moving } ∧ b.mem.xfers.length = s.blk.mem.xfers.length + 1 ∧
        (∀ x, b.mem.xfers.getLast? = some x → x.addr = hXferAddr h ∧ x.len = 2048 ∧ x.write = true ∧
          x.data = entryImage h a ++ histImage e.hist))) ∧
    (∀ x xs, s.blk.mem.done.filter (ownsXfer s.blk i) = x :: xs → s.blk.mem.xfers.any (ownsXfer s.blk i) = false →
      ∃ b : Block, Does (.transferDone i) s b ∧ TransferLeaves i x (x :: xs)
        { s.blk with mem := { s.blk.mem with done := s.blk.mem.done.filter fun y => !ownsXfer s.blk i y } } b) ∧
    (s.blk.mem.done.filter (ownsXfer s.blk i) = [] → Does (.transferDone i) s s.blk)

/-- Commands of a spill-directory entry, and the expiry of a PAUSED one (R269 to R271, R282), while scans run (R399). That a
scan may be taken entry by entry is the model's choice (log entry 44); so are that an expiry which is not due does nothing
(log entry 6) and that a removed or expired entry moves until its record is read (log entry 41). -/
def Obligations.DirectoryCommands : Prop :=
  ∀ (s : State) (d : Nat) (e a : DirEntry), Live s.blk → s.blk.fault = false → e = dirAt s.blk d →
    (scansRun s.blk = true → d < spillN s.blk → dirPending s.blk d = true → ∀ k, k = bits (dirCmdWord s.blk d) 3 0 →
      a = { e with ackSeq := bits (dirCmdWord s.blk d) 11 4 } →
      (k = 3 → spilled e = true → Does (.spillCancel d) s (endSpilled d 0x04 (setDir d a s.blk))) ∧
      (k = 4 → e.state = .spReady → ∃ b : Block, Does (.spillBlock d) s b ∧
        dirAt b d = { a with state := .spBlocked } ∧ (∀ j, j ≠ d → dirAt b j = dirAt s.blk j) ∧
        b = { s.blk with dir := b.dir }) ∧
      (k = 5 → e.state = .spBlocked → tenDraining s.blk e.tenant = false → ∃ b : Block, Does (.spillUnblock d) s b ∧
        dirAt b d = { a with state := .spReady, word3 := w32 (curCount s.blk) } ∧
        (∀ j, j ≠ d → dirAt b j = dirAt s.blk j) ∧ b = { s.blk with dir := b.dir }) ∧
      (k = 7 → e.state = .paused → tenDraining s.blk e.tenant = false → ∃ b : Block, Does (.resume d) s b ∧
        dirAt b d = { a with state := .spReady, word3 := w32 (curCount s.blk) } ∧
        (∀ j, j ≠ d → dirAt b j = dirAt s.blk j) ∧ b = { s.blk with dir := b.dir }) ∧
      (k = 9 → spilled e = true → Does (.spillRelease d) s (freeDir d (freePages e.pages (setDir d a s.blk)))) ∧
      (∀ c : Instr, (c, k) ∈ [(Instr.spillCancel d, 3), (.spillBlock d, 4), (.spillUnblock d, 5), (.resume d, 7),
          (.spillRelease d, 9)] → e.state = .free → Does c s (badCmd (setDir d a s.blk)))) ∧
    (expired s.blk d = true → scansRun s.blk = true → ∃ b : Block, Does (.ttlExpiry d) s b ∧ dirAt b d = { e with state := .moving } ∧
      (∀ j, j ≠ d → dirAt b j = dirAt s.blk j) ∧
      b = { s.blk with
        dir := b.dir
        mem := { s.blk.mem with nextId := b.mem.nextId, xfers := b.mem.xfers } } ∧
      (∀ x, b.mem.xfers.getLast? = some x → x.addr = spillSlot s.blk d ∧ x.len = 512 ∧ x.write = false ∧
        x.purpose = .spillEnd d 0x05)) ∧
    (expired s.blk d = false ∨ scansRun s.blk = false → Does (.ttlExpiry d) s s.blk) ∧
    (∀ c : Instr, c ∈ [Instr.spillCancel d, .spillBlock d, .spillUnblock d, .resume d, .spillRelease d] →
      scansRun s.blk = false → Does c s s.blk)

/-! ## The Ridge port -/

/-- A frame (R46, R47, R312 to R316, R330, R376): the first rule of R316 that applies decides, each with its counter: corrupt,
foreign or ahead of this block's steps, of a step that has ended, repeated, of another configuration (group fault 6) or
another BATCH (group fault 4), the last two counted received too. A frame of a step the block holds is kept, and one that a
peer waits for leaves its NAKs answered; of a step that no context holds a PULL or a NAK alone is kept. A frame that finds the
buffer full is lost, as is an early one without room. A held frame found with bad parity is dropped and counted as corrupt
(R376). That a buffer is full when not a byte is free, that a corrupt frame counts there too and the fault names its sender,
which messages taken count as held, and that frames are taken without a control clock too, are the model's choice (log entries
61, 62 and 81). -/
def Obligations.RidgeFrames : Prop :=
  ∀ (s : State) (bs : List Byte) (wire : RxWire) (m : Measure) (f : RxFrame), s.blk.testMode = false →
    s.blk.pwr.rstLow = false → f = rxOf bs → gateOf s.blk .rdg = .running →
    (rxFull s.blk = true → Does (.ridgeFrameRx bs wire m) s s.blk) ∧
    (∀ k, Live s.blk →
      (∀ h, (s.blk.rdg.rx.filter (frameEarly s.blk))[k]? = some h → Does (.tileComplete (.received k)) s
        (countUp 0x00C0C0 1 { s.blk with rdg := { s.blk.rdg with rx := s.blk.rdg.rx.erase h } })) ∧
      ((s.blk.rdg.rx.filter (frameEarly s.blk))[k]? = none → Does (.tileComplete (.received k)) s s.blk)) ∧
    (rxFull s.blk = false → frameCorrupt bs wire = true → Does (.ridgeFrameRx bs wire m) s (countUp 0x00C0C0 1 s.blk)) ∧
    (rxFull s.blk = false → frameCorrupt bs wire = false → frameEarly s.blk f = true → 65536 < rxUsed s.blk + bs.length →
      Does (.ridgeFrameRx bs wire m) s s.blk) ∧
    (rxFull s.blk = false → frameCorrupt bs wire = false → frameEarly s.blk f = false ∨ rxUsed s.blk + bs.length ≤ 65536 →
      (frameForeign s.blk bs = true ∨ frameAhead s.blk f = true →
        Does (.ridgeFrameRx bs wire m) s (countUp 0x00C0C4 1 s.blk)) ∧
      (frameForeign s.blk bs = false → frameAhead s.blk f = false →
        ((s.blk.rdg.ended.contains f.step = true ∧ nakKept s.blk f = false) ∨
            s.blk.rdg.rx.any (sameFrame f) = true ∨ (f.src, f.kind, f.step, f.round) ∈ s.blk.rdg.taken →
          Does (.ridgeFrameRx bs wire m) s (countUp 0x00C0C8 1 s.blk)) ∧
        (s.blk.rdg.ended.contains f.step = false ∨ nakKept s.blk f = true → s.blk.rdg.rx.any (sameFrame f) = false →
          (f.src, f.kind, f.step, f.round) ∉ s.blk.rdg.taken →
          (∀ (i : Nat) (c : Ctx), ctxOfStep s.blk f.step = some (i, c) →
            (numAt bs 24 4 = (bankEpoch s.blk c.bank).toNat → batchDiffers s.blk f = false → ∃ (b : Block) (d : Ctx),
              Does (.ridgeFrameRx bs wire m) s b ∧ b.rdg = { s.blk.rdg with rx := s.blk.rdg.rx ++ [f] } ∧
              ctxOf b i = some d ∧
              d = (if c.sharded = true ∧ isSummit s.blk c.bank = false ∧ f.kind = (if c.ex.batchSeen then 7 else 1) then
                { c with ex := { c.ex with naks := 0 } } else c) ∧
              b = { countUp 0x00C0BC 1 s.blk with rdg := b.rdg, ctx0 := b.ctx0, ctx1 := b.ctx1 }) ∧
            (numAt bs 24 4 ≠ (bankEpoch s.blk c.bank).toNat → ∃ b : Block, Does (.ridgeFrameRx bs wire m) s b ∧
              GroupFaulted s.blk b i c 6 f.src ∧ countOf 0x00C0BC b = sat32 (countOf 0x00C0BC s.blk + 1)) ∧
            (numAt bs 24 4 = (bankEpoch s.blk c.bank).toNat → batchDiffers s.blk f = true → ∃ b : Block,
              Does (.ridgeFrameRx bs wire m) s b ∧ GroupFaulted s.blk b i c 4 f.src ∧
              countOf 0x00C0BC b = sat32 (countOf 0x00C0BC s.blk + 1))) ∧
          (ctxOfStep s.blk f.step = none → batchDiffers s.blk f = false →
            (f.kind = 2 ∨ f.kind = 4 → Does (.ridgeFrameRx bs wire m) s { countUp 0x00C0BC 1 s.blk with
              rdg := { s.blk.rdg with rx := s.blk.rdg.rx ++ [f] } }) ∧
            (f.kind ≠ 2 → f.kind ≠ 4 → Does (.ridgeFrameRx bs wire m) s (countUp 0x00C0BC 1 s.blk))) ∧
          (ctxOfStep s.blk f.step = none → batchDiffers s.blk f = true → ∃ b : Block,
            Does (.ridgeFrameRx bs wire m) s b ∧ b.rdg.halt = true ∧ b.rdg.rx = s.blk.rdg.rx ∧
            (s.blk.rdg.gfault = 0 → b.rdg.gfault = 4 ∧ b.rdg.gshard = f.src ∧ b.rdg.gfstep = f.step) ∧
            countOf 0x00C0BC b = sat32 (countOf 0x00C0BC s.blk + 1)))))

/-- The exchange (R309, R310, R318, R319, R321 to R324, R326, R328, R331): a peer that holds a complete BATCH it agrees with
runs it; the oldest PULL that need not wait for its round is answered with PART or WINDOW, noted until the pass ends,
dropped where its round is over (the model's reading, log entry 170), or answered ABSENT; the Summit takes a PART whose
slice follows the last and a WINDOW, and pulls the next; RESCAN opens a peer's next round, whose tiles run; COMMIT is
applied to each entry of the batch and to nothing else of the table or the balances, by a pass that is not parked or
draining (log entry 171), and the peer's own done counter follows; a NAK is answered with the frames it asks for. What BDIG
and CFGE of an ABSENT say, to whom an answer to a NAK goes, and which messages are remembered and for how long, are the
model's choice (log entries 1, 58, 62 and 63), as is what a peer counts of a CANCELLING request (log entry 64). -/
def Obligations.RidgeExchange : Prop :=
  ∀ (s : State) (m : Measure) (i : Nat) (c : Ctx) (bs : List Byte), Live s.blk → s.blk.fault = false →
    gateOf s.blk .rdg = .running →
    (∀ (src : Nat) (l : List Cand), (peerCtx s.blk fun c => !c.ex.batchSeen) = some (i, c) →
      senderOf s.blk 1 c.num 0 = some (src, bs) → decide (numAt bs 4 1 = 1) = c.refine →
      (List.range (numAt bs 8 2)).map (batchCand s.blk c.regs c.refine bs) = l.map some →
      (layout l []).length = numAt bs 6 2 →
      ∃ (b : Block) (d : Ctx), Does (.batchMessage m) s b ∧ ctxOf b i = some d ∧ d.ex.batchSeen = true ∧
        d.num = c.num ∧ d.batch.seq = numAt bs 0 4 ∧ d.batch.rows = layout l [] ∧
        (∀ x, x ∈ l → (entryAt b x.i).state = .inflight) ∧ b.tenants = s.blk.tenants ∧ b.pwr = s.blk.pwr) ∧
    ((∀ f, f ∈ s.blk.rdg.rx → f.kind = 2 → pullWaits s.blk f = true) → Does .pullMessage s s.blk) ∧
    (∀ f, (s.blk.rdg.rx.find? fun f => f.kind = 2 && !pullWaits s.blk f) = some f →
      (ctxOfStep s.blk f.step = some (i, c) → isSummit s.blk c.bank = true ∨ f.round < c.ex.round →
        Does .pullMessage s (dropMsg f.src 2 f.step f.round s.blk)) ∧
      (ctxOfStep s.blk f.step = none → Does .pullMessage s (sendAbsent f.step f.src (dropMsg f.src 2 f.step f.round s.blk))) ∧
      (ctxOfStep s.blk f.step = some (i, c) → isSummit s.blk c.bank = false →
        (pullReady c f.round = true → Does .pullMessage s
          (answerPull c f.src false (fun _ => true) (dropMsg f.src 2 f.step f.round s.blk))) ∧
        (pullReady c f.round = false → f.round = c.ex.round → Does .pullMessage s
          (setCtx i (some { c with ex := { c.ex with pulled := true } }) (dropMsg f.src 2 f.step f.round s.blk))))) ∧
    (∀ src, pullingOf s.blk src = some (i, c) →
      (c.ex.round = 0 → wholeMsg s.blk src 3 c.num 0 = some bs → sliceOk s.blk c src bs = true →
        Does (.partMessage src m) s (pullNext i (setCtx i (some { c with ex := { c.ex with
          parts := c.ex.parts ++ [(src, numAt bs 4 4, readPartRows (decidedIdx c).length (bs.drop 16))]
          toPull := c.ex.toPull.drop 1 } }) (dropMsg src 3 c.num 0 s.blk)))) ∧
      (c.ex.round ≠ 0 → wholeMsg s.blk src 6 c.num c.ex.round = some bs →
        Does (.windowMessage src m) s (pullNext i (setCtx i (some { c with ex := { c.ex with
          windows := c.ex.windows ++ [(src, readWindows c.ex.rescan.length bs)], toPull := c.ex.toPull.drop 1 } })
          (dropMsg src 6 c.num c.ex.round s.blk))))) ∧
    (∀ src, (peerCtx s.blk fun c => c.phase = .decide && !c.parkReq && !c.parked) = some (i, c) →
      senderOf s.blk 5 c.num (c.ex.round + 1) = some (src, bs) → ∃ (b : Block) (d : Ctx), Does .rescanMessage s b ∧
      ctxOf b i = some d ∧ d.num = c.num ∧ (d.phase = .prologue ∨ d.phase = .tiles) ∧ d.ex.round = c.ex.round + 1 ∧
      d.ex.rescan = readRescan bs ∧ d.ex.windows = [] ∧ d.order = roundOrder c (readRescan bs) ∧
      countOf 0x009084 b = sat32 (countOf 0x009084 s.blk + 1) ∧
      (c.ex.round = 0 → countOf 0x009080 b = sat32 (countOf 0x009080 s.blk + (readRescan bs).length)) ∧
      (c.ex.round ≠ 0 → countOf 0x009080 b = countOf 0x009080 s.blk) ∧
      (∀ g, g ∈ b.rdg.rx → g ∈ s.blk.rdg.rx ∧
        ¬(g.src = src ∧ g.kind = 5 ∧ g.step = c.num ∧ g.round = c.ex.round + 1))) ∧
    (∀ src, (peerCtx s.blk fun c => c.phase = .decide && c.ex.batchSeen && !c.parkReq && !c.parked) = some (i, c) →
      senderOf s.blk 7 c.num 0 = some (src, bs) → ∃ b : Block, Does .commitMessage s b ∧
      (∀ (l z : List BReq) (q : BReq) (p : PReq), c.batch.reqs.Pairwise (fun x y => x.entry ≠ y.entry) →
        c.batch.reqs = l ++ q :: z → preqOf c q.entry = some p → PeerTakes c q
          (readCommitRec bs (16 + (l.map fun x => 16 + 4 * capWords x).sum) (capWords q)) s.blk b) ∧
      (∀ j, (∀ q, q ∈ c.batch.reqs → q.entry ≠ j) → entryAt b j = entryAt s.blk j) ∧
      (∀ n, (tenantAt b n).balance = (tenantAt s.blk n).balance ∧ (tenantAt b n).fair = (tenantAt s.blk n).fair) ∧
      b.used = s.blk.used ∧ b.counters = s.blk.counters ∧
      (∃ d, ctxOf b i = some d ∧ d.phase = .doneWrite ∧ d.num = c.num) ∧ b.rdg.lastCommit = c.num ∧
      b.step.digest = 0 ∧ b.step.digestStep = c.num ∧
      (∀ x, b.mem.xfers.getLast? = some x → x.purpose = .doneCounter i ∧ x.data = leBytes 8 c.num)) ∧
    (∀ src f k, (s.blk.rdg.rx.find? fun f => f.kind = 4 && f.src = src) = some f →
      keptMsg s.blk (numAt f.payload 0 1) f.step = some k → Does (.nakMessage src) s
        (sendFrames
          { bank := s.blk.cfg.active, kind := numAt f.payload 0 1, step := f.step, round := 0, dst := some src
            retx := true, anyH := false, bdig := k.bdig, cfge := k.cfge }
          (nakWants f.payload) k.payload (dropMsg src 4 f.step f.round s.blk)))

/-- The faults of the group (R327, R329, R330, R333 to R337): ABANDON, ABSENT, a PART whose slice does not follow, and a
wait that NAK_WAIT or TIMEOUT ends, each raises its code; a parked pass waits for nothing (R326), nor does one that drains,
which is the model's reading (log entry 171); before its commit begins the step is abandoned. While NAKs are left an expiry
of NAK_WAIT sends one, where no frame has come or one is missing before another; a peer's NAK to any holder follows under
the same condition. Neither limit does anything once the whole message is held, which for TIMEOUT is the model's reading
(log entry 109); the shard that ABANDON names is counted missing for codes 1 and 3 alone (log entry 61). -/
def Obligations.RidgeFaults : Prop :=
  ∀ (s : State) (m : Measure) (i : Nat) (c : Ctx), Live s.blk → gateOf s.blk .rdg = .running →
    (∀ src bs, (peerCtx s.blk fun c => beforeCommit c && (senderOf s.blk 8 c.num 0).isSome) = some (i, c) →
      senderOf s.blk 8 c.num 0 = some (src, bs) → ∃ b : Block, Does (.abandonMessage m) s b ∧
      GroupFaulted s.blk b i c 7 (numAt bs 1 1)) ∧
    (∀ src bs, pullingOf s.blk src = some (i, c) →
      (wholeMsg s.blk src 9 c.num 0 = some bs → ∃ b : Block, Does (.absentMessage src m) s b ∧
        GroupFaulted s.blk b i c 3 src ∧ src ∈ b.rdg.missing) ∧
      (c.ex.round = 0 → wholeMsg s.blk src 3 c.num 0 = some bs → sliceOk s.blk c src bs = false → ∃ b : Block,
        Does (.partMessage src m) s b ∧ GroupFaulted s.blk b i c 5 src)) ∧
    (∀ j kind round, ((ctxs s.blk).find? fun c => (expecting s.blk c.2).isSome) = some (i, c) →
      expecting s.blk c = some (j, kind, round) →
      (heldWhole s.blk c j kind round = true →
        Does (.nakWaitExpiry m) s s.blk ∧ Does (.ridgeTimeout m) s s.blk) ∧
      (heldWhole s.blk c j kind round = false →
        (c.ex.naks < retries c →
          (waitLapsed s.blk c j kind round = true → Does (.nakWaitExpiry m) s (sendNak i kind round (some j) s.blk)) ∧
          (waitLapsed s.blk c j kind round = false → Does (.nakWaitExpiry m) s s.blk)) ∧
        (retries c = 0 → c.ex.naks = 0 → waitLapsed s.blk c j kind round = false → Does (.nakWaitExpiry m) s s.blk) ∧
        (retries c ≤ c.ex.naks → (0 < c.ex.naks ∨ waitLapsed s.blk c j kind round = true) →
          (isSummit s.blk c.bank = true → ∃ b : Block, Does (.nakWaitExpiry m) s b ∧ GroupFaulted s.blk b i c 1 j ∧
            j ∈ b.rdg.missing) ∧
          (isSummit s.blk c.bank = false → c.ex.anyNak = false → waitLapsed s.blk c j kind round = true →
            Does (.nakWaitExpiry m) s (sendNak i kind round none s.blk)) ∧
          (isSummit s.blk c.bank = false → c.ex.anyNak = true ∨ waitLapsed s.blk c j kind round = false →
            Does (.nakWaitExpiry m) s s.blk)) ∧
        (isSummit s.blk c.bank = true → ∃ b : Block, Does (.ridgeTimeout m) s b ∧ GroupFaulted s.blk b i c 1 j ∧
          j ∈ b.rdg.missing) ∧
        (isSummit s.blk c.bank = false → ∃ b : Block, Does (.ridgeTimeout m) s b ∧ GroupFaulted s.blk b i c 2 j ∧
          b.rdg.resync = true)))

/-! ## The sealed meter -/

/-- Each strobe that passes its check has its effect (R417 to R422): the token strobes on their tenants, STEP_ROWS on the
row table, IDLE on overhead by the gains of R423, where no product passes u64 (the model's reading of one that would, log
entry 75, is not stated), and CLOCK on the clock counters, each with PRESEAL and nothing else of the
island; COUNT on the count and the period, without PRESEAL, and it makes a record due once enough account periods have
passed (R428), by the model's reading of when that is (log entry 76). That an open sum has no top (log entry 74), and that
every strobe but COUNT sets PRESEAL until SEALED is first reached (log entry 77), are the model's choice. -/
def Obligations.StrobesCount : Prop :=
  ∀ (s : State) (l : List Strobe), s.isl.on = true →
    (∀ t a b c d, takeStrobe 0 isIntent s.blk.strobes = some (.intent t a b c d, l) →
      Meters (.intent false) s l (counted (tenMod s.isl t fun m => { m with
        oCommit := m.oCommit + a, oDiscard := m.oDiscard + b, oScored := m.oScored + c, oDraft := m.oDraft + d }))) ∧
    (∀ t a b c d, takeStrobe 0 isConfirm s.blk.strobes = some (.confirm t a b c d, l) →
      Meters (.confirmStrobe false) s l (counted (tenMod s.isl t fun m => { m with
        oCommit := m.oCommit - a, oDiscard := m.oDiscard - b, oScored := m.oScored - c, oDraft := m.oDraft - d
        commit := sat64 (m.commit + a), discard := sat64 (m.discard + b), scored := sat64 (m.scored + c)
        draft := sat64 (m.draft + d) }))) ∧
    (∀ t a b c d, takeStrobe 0 isCancel s.blk.strobes = some (.cancel t a b c d, l) →
      Meters (.strobeCancel false) s l (counted (tenMod s.isl t fun m => { m with
        oCommit := m.oCommit - a, oDiscard := m.oDiscard - b, oScored := m.oScored - c, oDraft := m.oDraft - d }))) ∧
    (∀ t n, takeStrobe 0 isDiscard s.blk.strobes = some (.discard t n, l) →
      Meters (.discard false) s l (counted (tenMod s.isl t fun m => { m with discard := sat64 (m.discard + n) }))) ∧
    (∀ t n, takeStrobe 0 isStepRows s.blk.strobes = some (.stepRows t n, l) →
      Meters (.stepRows false) s l (counted { s.isl with
        rowTab := tmod (fun _ => 0) s.isl.rowTab t fun k => k + n })) ∧
    (∀ (r : Rails) (e : Nat), takeStrobe 0 isIdle s.blk.strobes = some (.idle, l) →
      r.cmp * s.isl.cal.gainCmp < 2 ^ 64 → r.base * s.isl.cal.gainBase < 2 ^ 64 → r.sram * s.isl.cal.gainSram < 2 ^ 64 →
      e = r.cmp * s.isl.cal.gainCmp / 2 ^ 16 + r.base * s.isl.cal.gainBase / 2 ^ 16 +
        r.sram * s.isl.cal.gainSram / 2 ^ 16 →
      Meters (.idle r false) s l (counted { s.isl with ovhNj := sat64 (s.isl.ovhNj + e) })) ∧
    (∀ c p, takeStrobe 1 isCount s.blk.strobes = some (.count c p, l) →
      Meters (.countStrobe false) s l { s.isl with
        count := c, period := p, countNew := true, triggers := s.isl.triggers + b2n (periodTrigger s.isl p) }) ∧
    (takeStrobe 2 isClock s.blk.strobes = some (.clock false, l) →
      Meters (.clockStrobe false) s l (counted { s.isl with monTrips := sat32 (s.isl.monTrips + 1) })) ∧
    (takeStrobe 2 isClock s.blk.strobes = some (.clock true, l) →
      Meters (.clockStrobe false) s l (counted { s.isl with holds := sat32 (s.isl.holds + 1) }))

/-- OPEN_DROP moves every tenant's open committed tokens to UNRESOLVED_TOK and empties the open sums (R421); a strobe
whose check fails adds one to STROBE_ERR and has no other effect (R419). -/
def Obligations.OpenDropAndBadStrobes : Prop :=
  ∀ (s : State) (l : List Strobe) (e : Strobe), s.isl.on = true →
    (takeStrobe 0 isOpenDrop s.blk.strobes = some (e, l) →
      ∃ j : Island, Meters (.openDrop false) s l j ∧
        (∀ n, tenCount j.tens n = { tenCount s.isl.tens n with
          unresolved := sat64 ((tenCount s.isl.tens n).unresolved + (tenCount s.isl.tens n).oCommit)
          oCommit := 0, oDiscard := 0, oScored := 0, oDraft := 0 }) ∧
        j = { s.isl with
          tens := j.tens, preseal := j.preseal, faultSeen := s.isl.faultSeen || decide (e = .openDrop)
          resetSeen := s.isl.resetSeen || decide (e = .rstDrop) }) ∧
    (∀ (c : Instr) (k : Nat) (f : Strobe → Bool) (r : Rails), (c, k, f) ∈ [
        (Instr.intent true, 0, isIntent), (.confirmStrobe true, 0, isConfirm), (.strobeCancel true, 0, isCancel),
        (.discard true, 0, isDiscard), (.openDrop true, 0, isOpenDrop), (.stepRows true, 0, isStepRows),
        (.stepEnd r true, 0, isStepEnd), (.idle r true, 0, isIdle), (.countStrobe true, 1, isCount),
        (.clockStrobe true, 2, isClock)] →
      takeStrobe k f s.blk.strobes = some (e, l) → e ≠ .rstDrop →
      Meters c s l { s.isl with strobeErr := sat32 (s.isl.strobeErr + 1) })

/-- STEP_END attributes energy (R422 to R424). E is the sum over the rails of ⌊r × GAIN ÷ 2¹⁶⌋. With ATTR at 1 and R rows in
the table, a tenant with n of them receives ⌊E × n ÷ R⌋, the remainder goes to overhead and STEPS rises by one; otherwise
all of E is overhead. The row table clears. R423 and R424 compute in u64, and no product here passes it; the model's reading
of one that would (log entry 75) is not stated. -/
def Obligations.StepEndAttributes : Prop :=
  ∀ (s : State) (l : List Strobe) (r : Rails) (k : Nat) (attr : Bool) (e total : Nat), MeterInv s.isl → s.isl.on = true →
    takeStrobe 0 isStepEnd s.blk.strobes = some (.stepEnd k attr, l) →
    e = r.cmp * s.isl.cal.gainCmp / 2 ^ 16 + r.base * s.isl.cal.gainBase / 2 ^ 16 + r.sram * s.isl.cal.gainSram / 2 ^ 16 →
    r.cmp * s.isl.cal.gainCmp < 2 ^ 64 → r.base * s.isl.cal.gainBase < 2 ^ 64 → r.sram * s.isl.cal.gainSram < 2 ^ 64 →
    e < 2 ^ 64 → (∀ x ∈ s.isl.rowTab, e * x.2 < 2 ^ 64) → total = (s.isl.rowTab.map (·.2)).sum →
    ∃ j : Island, Meters (.stepEnd r false) s l j ∧ j.rowTab = [] ∧
      (attr = true → 0 < total →
        (∀ n, tenCount j.tens n = { tenCount s.isl.tens n with
          nj := sat64 ((tenCount s.isl.tens n).nj + e * tget (fun _ => 0) s.isl.rowTab n / total) }) ∧
        j.ovhNj = sat64 (s.isl.ovhNj + (e - (s.isl.rowTab.map fun x => e * x.2 / total).sum)) ∧
        (s.isl.rowTab.map fun x => e * x.2 / total).sum ≤ e ∧ j.steps = sat64 (s.isl.steps + 1)) ∧
      (attr = false ∨ total = 0 → j.tens = s.isl.tens ∧ j.ovhNj = sat64 (s.isl.ovhNj + e) ∧ j.steps = s.isl.steps)

/-- The seal-key port (R54, R425 to R427): the first byte of a load makes LOADING; the last, of eighty with a calibration
block that passes its check, makes SEALED with that key and those gains; with another check or at another count it makes BAD;
SEALED and BAD ignore every byte. test_mode erases the key (R60), and the gains stay, which is the model's reading (log entry
73); pg_mtr falling takes the island away, with the strobes on their way, and rising starts
it again from zero with the default gains (R57, R58, R427, R432). That its fall raises GLB's METER_ABSENT interrupt is the
model's reading (log entry 16). -/
def Obligations.SealAndPower : Prop :=
  ∀ (s : State), s.blk.pwr.state ≠ .offReady →
    (∀ b, s.isl.on = true → s.isl.sk = .open → s.isl.load = [] →
      exec (.sealKeyByte b false) s = .next { s with
        isl := { s.isl with sk := .loading, load := [b] }
        blk := { s.blk with mirror := { s.blk.mirror with sk := .loading, live := .loading } } }) ∧
    (∀ b, s.isl.on = true → s.isl.sk = .loading → s.isl.load.length = 79 →
      (∀ c, calibOf ((s.isl.load ++ [b]).drop 16) = some c →
        ∃ t : State, exec (.sealKeyByte b true) s = .next t ∧ t.isl.sk = .sealed ∧ t.isl.wasSealed = true ∧
          t.isl.key = (s.isl.load ++ [b]).take 16 ∧ t.isl.cal = c ∧ t.isl.tens = s.isl.tens ∧ t.blk.mirror.sk = .sealed) ∧
      (calibOf ((s.isl.load ++ [b]).drop 16) = none →
        ∃ t : State, exec (.sealKeyByte b true) s = .next t ∧ t.isl.sk = .bad ∧ t.isl.key = [] ∧
          t.isl.cal = s.isl.cal ∧ t.isl.tens = s.isl.tens)) ∧
    (∀ b, s.isl.on = true → s.isl.sk = .open ∨ s.isl.sk = .loading → s.isl.load.length ≠ 79 →
      ∃ t : State, exec (.sealKeyByte b true) s = .next t ∧ t.isl.sk = .bad ∧ t.isl.key = [] ∧ t.isl.load = [] ∧
        t.isl.cal = s.isl.cal ∧ t.isl.tens = s.isl.tens ∧ t.blk.mirror.sk = .bad) ∧
    (∀ b last, s.isl.sk = .sealed ∨ s.isl.sk = .bad →
      ∃ t : State, exec (.sealKeyByte b last) s = .next t ∧ t.isl = s.isl) ∧
    (s.isl.on = true →
      ∃ t : State, exec .testModeRise s = .next t ∧ t.blk.testMode = true ∧ t.isl.sk = .bad ∧ t.isl.key = [] ∧
        t.isl.tens = s.isl.tens ∧ t.isl.cal = s.isl.cal) ∧
    (s.blk.pwr.pgMtr = true →
      ∃ t : State, exec .pgMtrFall s = .next t ∧ t.isl.on = false ∧ t.blk.pwr.pgMtr = false ∧ t.blk.strobes = [] ∧
        (s.blk.pwr.rstLow = false → bit (irqStat .glb t.blk) 1 = true)) ∧
    (s.blk.pwr.pgMtr = false →
      ∃ t : State, exec .pgMtrRise s = .next t ∧ t.isl.on = true ∧ t.isl.sk = .open ∧ t.isl.seq = 0 ∧ t.isl.tens = [] ∧
        t.isl.ovhNj = 0 ∧ t.isl.steps = 0 ∧ t.isl.strobeErr = 0 ∧ t.isl.cal = ⟨1, 64, 0x40000, 0x40000, 0x40000, 0⟩ ∧
        t.blk.pwr.pgMtr = true ∧ t.blk.mirror.valid = false)

/-- Records (R428 to R431, R433): REC_MAX makes one due; one that is due, with the port free and sk_state SEALED or BAD,
starts with the counters of that moment and the next SEQ follows it; its end sends it, pulses irq_meter and fills the
mirror, which stays while the block is in cold reset or OFF (R434). Its tag is the CMAC of all before it under the key in
SEALED and zero otherwise. -/
def Obligations.RecordsAreSent : Prop :=
  ∀ s : State,
    (s.isl.on = true → exec .recMaxExpiry s = .next { s with isl := { s.isl with triggers := s.isl.triggers + 1 } }) ∧
    (s.isl.on = true → 0 < s.isl.triggers → s.isl.sending = none → s.isl.sk = .sealed ∨ s.isl.sk = .bad →
      ∃ t : State, exec .cairnRecord s = .next t ∧ t.isl.sending = some (recBytes s.isl) ∧
        t.isl.seq = (s.isl.seq + 1) % 2 ^ 64 ∧ t.isl.triggers = 0 ∧ t.isl.tens = s.isl.tens ∧ t.isl.snap = s.isl.tens ∧
        t.isl.ovhNj = s.isl.ovhNj ∧ t.isl.steps = s.isl.steps ∧ t.blk = s.blk) ∧
    (∀ bs, s.isl.sending = some bs → s.blk.pwr.state ≠ .offReady → s.blk.pwr.rstLow = false →
      ∃ t : State, exec .cairnRecordEnd s = .next t ∧ t.isl = { s.isl with sending := none } ∧
        t.blk.out = s.blk.out ++ [.cairn bs, .irqMeter] ∧ t.blk.mirror.valid = true ∧
        t.blk.mirror.header = slice bs 0 96 ∧ t.blk.mirror.sk = s.blk.mirror.sk) ∧
    (∀ bs, s.isl.sending = some bs → s.blk.pwr.state = .offReady ∨ s.blk.pwr.rstLow = true →
      exec .cairnRecordEnd s = .next { s with
        isl := { s.isl with sending := none }
        blk := { s.blk with out := s.blk.out ++ [.cairn bs, .irqMeter] } }) ∧
    (recBytes s.isl = recBody s.isl ++
      (if s.isl.sk = .sealed then cmac s.isl.key (recBody s.isl) else List.replicate 16 0)) ∧
    numAt (recBytes s.isl) 0 8 = s.isl.seq % 2 ^ 64 ∧ numAt (recBytes s.isl) 24 8 = 0x4D54040200000001

/-- The invariant of the meter island, kept by every step from every state (R54, R417, R432). -/
def Obligations.MeterInvKept : Prop :=
  ∀ s t : State, MeterInv s.isl → step s = .next t → MeterInv t.isl

/-- The three invariants hold in the state right after reset. -/
def Obligations.InvariantsAtReset : Prop :=
  MeterInv State.reset.isl ∧ BlockInv State.reset.blk ∧ PortInv State.reset.blk.mem

/-- No step but one that takes PG_MTR_FALL or PG_MTR_RISE lowers any counter of the meter: no register, strobe or port
can clear one, and rst_n does not reset it (R57, R417, R432). -/
def Obligations.MeterNeverLowered : Prop :=
  ∀ s t : State, MeterInv s.isl → step s = .next t →
    s.pending.head? ≠ some .pgMtrFall → s.pending.head? ≠ some .pgMtrRise →
    (∀ n, CountLe (tenCount s.isl.tens n) (tenCount t.isl.tens n)) ∧
    s.isl.ovhNj ≤ t.isl.ovhNj ∧ s.isl.steps ≤ t.isl.steps ∧ s.isl.strobeErr ≤ t.isl.strobeErr ∧
    s.isl.monTrips ≤ t.isl.monTrips ∧ s.isl.holds ≤ t.isl.holds

/-! ## The block and its memory ports -/

/-- The invariant of the block's own state, kept by every step from every state: the launch queue holds at most eight
entries with counts that rise strictly (R63, R64); every RW and RW-step register holds, as written and in force, its reset
value or one that its width and range admit (R12, R17); and every table, counter and store is in its one form. -/
def Obligations.BlockInvKept : Prop :=
  ∀ s t : State, BlockInv s.blk → step s = .next t → BlockInv t.blk

/-- The invariant of the memory ports, kept by every step from every state, and what follows of it: every outstanding
access stands on the port of its address, with a tag of its direction that no other holds there, and touches no more than
one block of 256 bytes, a write one beat (R40, R360); so no port has more than 64 reads and 32 writes outstanding. -/
def Obligations.PortInvKept : Prop :=
  ∀ s t : State, PortInv s.blk.mem → step s = .next t →
    PortInv t.blk.mem ∧ ∀ p : Nat, outReads t.blk p ≤ 64 ∧ outWrites t.blk p ≤ 32

/-- What a transfer that has ended hands over (R71, R88, R99, R117, R294, R324, R363, R374, R420, R466). The response that
ends the last access of the only transfer takes the transfer off the ports and gives its data to what asked for it, and the
ports then issue what follows. Guard data lets a pass that waits for it begin its chunk where it has reached the step's
number; a row is held for its pass or, where it could not be read, removed with cause 0x0C; a draft block, a chunk's tokens
or an adapter goes to its rows or removes them (R128, R221, R266), each counted (log entry 119); a panel takes its place and
is no longer absent; the counter takes the value written, or stays and makes the step PARTIAL; the done counter's OKAY shows
the step's number and lets the step end, a Summit's step with rows sending COMMIT first (R324); the state record's OKAY
sends CONFIRM, and the commit can no longer be stopped (R86, R420); a record or state record that could not be written, or
one that lands with its tenant in fault, stops its request (R298); a failed load is LOAD_ERR (R443); a spilled entry's end
writes its record and frees it, and a record outside a commit its counter (R269, R270, R294, R475); a row list is followed
by its header (R265). That a counter which could not be written makes the step PARTIAL, and that a sharded step with an
empty batch ends with no COMMIT, is the model's reading (log entries 33 and 59); that CONFIRM goes before the rest of point
3 is its choice (log entry 144). -/
def Obligations.TransfersHandOver : Prop :=
  ∀ (s : State) (port tag : Nat) (a : Access) (x y : Xfer) (b : Block), Live s.blk → s.blk.fault = false →
    (s.blk.mem.xfers = [x] → s.blk.mem.access = [a] → s.blk.mem.done = [] → a.xfer = x.id → a.port = port → a.tag = tag →
      stays x = false → x.ended + a.beats = xferBeats x →
      b = { s.blk with mem := { s.blk.mem with xfers := [], access := [] } } →
      (a.write = true → a.beats = 1 → y = { x with ended := x.ended + 1 } →
        exec (.memWriteResponse port tag 0) s = .next { s with blk := duskCheck (settleLoop 65535 (handOver y b)) }) ∧
      (∀ beats : List Beat, a.write = false → a.tries = 0 → a.badErr = none → a.badPar = none → beats ≠ [] →
        beats.all beatOk = true → a.recvd.length + beats.length = a.beats →
        y = { x with
          ended := x.ended + a.beats, got := putBeats x.got a.off (a.recvd ++ beats.map (·.data)) } →
        exec (.memReadResponse port tag beats true 0) s =
          .next { s with blk := duskCheck (settleLoop 65535 (handOver y b)) })) ∧
    (∀ (i : Nat) (c : Ctx), ctxOf b i = some c →
      (y.purpose = .guard i → y.failed = false → c.phase = .guard → c.parkReq = false →
        (c.num ≤ leNat (xferBytes y) → handOver y b = startChunk i b) ∧
        (leNat (xferBytes y) < c.num → handOver y b = b)) ∧
      (∀ (r : Nat) (p : PRow), y.purpose = .row i r → c.rows[r]? = some p →
        ∃ (d : Ctx) (n : Nat), handOver y b = advanceRepair i (setCtx i (some d) (countUp 0x007088 n b)) ∧
          (y.failed = false → n = 0 ∧ d = { c with rows := c.rows.set r { p with fetched := some (xferBytes y) } }) ∧
          (y.failed = true → p.removed = 0 → n = 1 ∧ d = { c with rows := c.rows.set r (lostRow 0x0C p) }) ∧
          (y.failed = true → p.removed ≠ 0 → n = 0 ∧ d = c)) ∧
      (∀ (e : Nat) (q : BReq) (d : Ctx), y.purpose = .draft i e → breqOf c.batch e = some q →
        d = { c with reqs := c.reqs.map fun r => if r.entry = e then { r with dataIn := true } else r } →
        (∀ l, y.failed = false → draftBlock (xferBytes y) (entryAt b e).len q.dstep = some l →
          handOver y b = advanceChunk i (setCtx i (some { d with
            reqs := d.reqs.map fun r => if r.entry = e then { r with drafts := some l } else r }) b)) ∧
        (∀ code, (y.failed = true ∧ code = 0x0C) ∨
            (y.failed = false ∧ draftBlock (xferBytes y) (entryAt b e).len q.dstep = none ∧ code = 0x0B) →
          ∃ z : Ctx, ReqLost e code d z ∧
            handOver y b = advanceChunk i (setCtx i (some z) (countUp 0x007088 (rowsLeft e c) b)))) ∧
      (∀ (e : Nat) (ts : List Nat) (good : Bool) (d : Ctx), y.purpose = .chunk i e →
        ts = (List.range ((xferBytes y).length / 4)).map (fun k => numAt (xferBytes y) (4 * k) 4) →
        good = (!y.failed && ts.all fun t => decide (t < 4194304)) →
        d = { c with reqs := c.reqs.map fun r => if r.entry = e then
          { r with dataIn := true, toks := if good then ts else [] } else r } →
        (good = true → handOver y b = advanceChunk i (setCtx i (some d) (countUp 0x007088 0 b))) ∧
        (good = false → ∃ z : Ctx, ReqLost e (if y.failed then 0x0C else 0x08) d z ∧
          handOver y b = advanceChunk i (setCtx i (some z) (countUp 0x007088 (rowsLeft e c) b)))) ∧
      (∀ t slot : Nat, y.purpose = .adapter i t slot →
        (y.failed = false → handOver y b = setCtx i (some { c with adapters := c.adapters.map fun a =>
          if a.1 = t && a.2.1 = slot then (a.1, a.2.1, some (xferBytes y)) else a }) b) ∧
        (y.failed = true → ∃ z : Ctx,
          handOver y b = advanceRepair i (setCtx i (some z) (countUp 0x007088 (adapterRows b t slot c) b)) ∧
          z = { c with
            rows := z.rows, adapters := c.adapters.filter fun a => !(a.1 = t && a.2.1 = slot)
            adpAsked := false, adpAbsent := [] } ∧ z.rows.length = c.rows.length ∧
          ∀ (r : Nat) (p : PRow), c.rows[r]? = some p →
            z.rows[r]? = some (if adapterRow b t slot c r p then lostRow 0x0A p else p))) ∧
      (∀ t slot n : Nat, y.purpose = .adapterPanel i t slot n →
        (y.failed = false → handOver y b = setCtx i (some { c with
          adpAbsent := c.adpAbsent.filter fun k => k ≠ n
          adapters := c.adapters.map fun a => if a.1 = t && a.2.1 = slot then (a.1, a.2.1, a.2.2.map fun w =>
            overlay w (n * panelBytes (adpFmt (adpDesc c.regs t slot).fmt)) (xferBytes y)) else a }) b) ∧
        (y.failed = true → handOver y b = handOver { y with purpose := .adapter i t slot } b)) ∧
      (∀ (t g cb q u : Nat) (w : WeightBlk), y.purpose = .panel i t g cb q u → c.phase = .tiles → c.weights = [w] →
        w.t = t → w.g = g → w.cb = cb → handOver y b = setCtx i (some { c with weights := [{ w with
          bytes := overlay w.bytes ((q * (bankH b c.bank / 64) + u) * panelBytes (ctxWgt b c)) (xferBytes y)
          absent := w.absent.filter fun k => k ≠ (q, u) }] }) b) ∧
      (∀ e k v : Nat, y.purpose = .counter i e k v →
        (y.failed = false → (handOver y b).counters = tset (fun _ => 0) b.counters k v) ∧
        (y.failed = true → (handOver y b).counters = b.counters ∧
          ∃ d, ctxOf (handOver y b) i = some d ∧ d.partialC = true)) ∧
      (∀ z : Block, y.purpose = .doneCounter i →
        z = setCtx i (some { c with phase := .ending }) { b with step := { b.step with doneNum := c.num } } →
        (c.sharded = false ∨ isSummit b c.bank = false ∨ c.batch.rows = [] → handOver y b = z) ∧
        (c.sharded = true → isSummit b c.bank = true → c.batch.rows ≠ [] → handOver y b = sendCommit c z)) ∧
      (∀ (e : Nat) (q : BReq) (p : PReq) (pl : Plan), breqOf c.batch e = some q → preqOf c e = some p →
        p.plan = some pl →
        (y.purpose = .record i e → p.stage = .records →
          (y.failed = false → handOver y b = b) ∧ (y.failed = true → handOver y b = stopReq i q pl b)) ∧
        (y.purpose = .stateRec i e → p.stage = .stateRec →
          (y.failed = false → inFault b q.tenant = false → handOver y b =
            strobe (.confirm q.tenant (countsOf q pl).1 (countsOf q pl).2.1 (countsOf q pl).2.2.1 (countsOf q pl).2.2.2)
              (modReq i e (fun p => { p with stage := .landed, intent := false }) b)) ∧
          (y.failed = true ∨ inFault b q.tenant = true → handOver y b = stopReq i q pl b)))) ∧
    (y.purpose = .load → bit (flagWord .cfg (handOver y b)) 8 = true ∧ (handOver y b).cfg = { b.cfg with loadBusy := false } ∧
      (∀ v, v ∈ (handOver y b).mem.xfers ++ (handOver y b).mem.done → v.purpose ≠ .load) ∧
      (handOver y b).stores = b.stores ∧ (handOver y b).host = b.host) ∧
    (∀ (d st : Nat) (e : DirEntry) (r : List Byte), y.purpose = .spillEnd d st → e = dirAt b d → r = xferBytes y →
      (y.failed = true → handOver y b = freeDir d (freePages e.pages b)) ∧
      (y.failed = false → handOver y b = freeDir d (freePages e.pages (writeOutside e.tenant (numAt r 7 1 % 4)
        (numAt r 0x14C 4 % 16384) e.reqId (numAt r 0x10C 4) (numAt r 0x104 4) (numAt r 0x158 6) (numAt r 0x16 2) st b)))) ∧
    (∀ t k v : Nat, y.purpose = .outRecord t k v → (y.failed = true → handOver y b = b) ∧
      (y.failed = false → handOver y b = request true (counterAddr (rf b) t k) 8 (leBytes 8 v) 5 (some t) (.tenant t) none
        (.outCounter k v) b)) ∧
    (∀ k v : Nat, y.purpose = .outCounter k v → (y.failed = true → handOver y b = b) ∧
      (y.failed = false → handOver y b = { b with counters := tset (fun _ => 0) b.counters k v })) ∧
    (∀ seq : Nat, y.purpose = .descRows seq → (batchOf b seq = none → handOver y b = b) ∧
      (∀ n, batchOf b seq = some n → handOver y b = request true (descSlot (rf b) seq) 64 (headBytes n.1 n.2) 3 none .system
        none (.descHead seq) b)) ∧
    (∀ k : Nat, y.purpose = .pageList k ∨ y.purpose = .orphan k ∨ y.purpose = .descHead k ∨ y.purpose = .descLaunch →
      handOver y b = b)
end

