-- ==== Sys2Proof/Laws/Dispatch.lean ====
section
/-! SUPPORT. One equation per command: what `exec` is on it, so that no proof unfolds the dispatch. -/

namespace Sys2Proof.Laws

open Machine

@[simp] theorem exec_registerWrite (addr : BitVec 24) (data : Word) (par : BitVec 4) (s : State) : exec (.registerWrite addr data par) s =
    portCommand addr.toNat data par s := rfl
@[simp] theorem exec_latchingRead (addr : BitVec 24) (s : State) : exec (.latchingRead addr) s =
    mission (portRead addr.toNat) s := rfl
@[simp] theorem exec_tableWindowWrite (addr : BitVec 24) (data : Word) (par : BitVec 4) (s : State) : exec (.tableWindowWrite addr data par) s =
    portCommand addr.toNat data par s := rfl
@[simp] theorem exec_launchPush (data : Word) (par : BitVec 4) (s : State) : exec (.launchPush data par) s =
    portCommand 0x004088 data par s := rfl
@[simp] theorem exec_meridianWord (bits : BitVec 72) (s : State) : exec (.meridianWord bits) s =
    mission (meridianWord bits) s := rfl
@[simp] theorem exec_launch (remaining : Nat) (m : Measure) (s : State) : exec (.launch remaining m) s =
    mission (fun b => settle (launchStep remaining m b)) s := rfl
@[simp] theorem exec_batchForm (s : State) : exec (.batchForm) s =
    blockEvent batchForm s := rfl
@[simp] theorem exec_guardCheckBegin (s : State) : exec (.guardCheckBegin) s =
    blockEvent guardBegin s := rfl
@[simp] theorem exec_guardPoll (s : State) : exec (.guardPoll) s =
    blockEvent guardAgain s := rfl
@[simp] theorem exec_guardTimeout (m : Measure) (s : State) : exec (.guardTimeout m) s =
    blockEvent (guardLapse m) s := rfl
@[simp] theorem exec_memReadResponse (port tag : Nat) (beats : List Beat) (last : Bool) (err : BitVec 2) (s : State) : exec (.memReadResponse port tag beats last err) s =
    portEvent (readResponse port tag beats last err) s := rfl
@[simp] theorem exec_memWriteResponse (port tag : Nat) (err : BitVec 2) (s : State) : exec (.memWriteResponse port tag err) s =
    portEvent (writeResponse port tag err) s := rfl
@[simp] theorem exec_memTimeout (port tag : Nat) (write : Bool) (s : State) : exec (.memTimeout port tag write) s =
    portEvent (memTimeout port tag write) s := rfl
@[simp] theorem exec_rowNormalised (row : Nat) (s : State) : exec (.rowNormalised row) s =
    blockEvent (rowNormal row) s := rfl
@[simp] theorem exec_adapterRun (s : State) : exec (.adapterRun) s =
    blockEvent adapterRun s := rfl
@[simp] theorem exec_tileComplete (parity : TileParity) (s : State) : exec (.tileComplete parity) s =
    blockEvent (tileComplete parity) s := rfl
@[simp] theorem exec_deliveryBlock (frozen : Nat) (freeze : List Nat) (bad : Option BadPanel) (s : State) : exec (.deliveryBlock frozen freeze bad) s =
    blockEvent (deliveryBlock frozen freeze bad) s := rfl
@[simp] theorem exec_deliveryFold (laneFreeze : Nat) (s : State) : exec (.deliveryFold laneFreeze) s =
    blockEvent (deliveryFold laneFreeze) s := rfl
@[simp] theorem exec_passPark (s : State) : exec (.passPark) s =
    blockEvent passPark s := rfl
@[simp] theorem exec_decision (rescanCycles : Nat) (s : State) : exec (.decision rescanCycles) s =
    blockEvent (decision rescanCycles) s := rfl
@[simp] theorem exec_genDraw (s : State) : exec (.genDraw) s =
    blockEvent genDraw s := rfl
@[simp] theorem exec_requestCommitStart (entry : Nat) (s : State) : exec (.requestCommitStart entry) s =
    blockEvent (commitStart entry) s := rfl
@[simp] theorem exec_stateRecordWrite (entry : Nat) (s : State) : exec (.stateRecordWrite entry) s =
    blockEvent (stateRecWrite entry) s := rfl
@[simp] theorem exec_requestCommitted (entry : Nat) (s : State) : exec (.requestCommitted entry) s =
    blockEvent (committed entry) s := rfl
@[simp] theorem exec_doneCounterWrite (s : State) : exec (.doneCounterWrite) s =
    blockEvent doneWrite s := rfl
@[simp] theorem exec_stepDone (m : Measure) (s : State) : exec (.stepDone m) s =
    blockEvent (stepDone m) s := rfl
@[simp] theorem exec_cmdNone (entry : Nat) (s : State) : exec (.cmdNone entry) s =
    blockEvent (actCmdOf 0 entry) s := rfl
@[simp] theorem exec_cmdAdmit (entry : Nat) (s : State) : exec (.cmdAdmit entry) s =
    blockEvent (actCmdOf 1 entry) s := rfl
@[simp] theorem exec_cmdImport (entry : Nat) (s : State) : exec (.cmdImport entry) s =
    blockEvent (actCmdOf 2 entry) s := rfl
@[simp] theorem exec_cmdCancel (entry : Nat) (s : State) : exec (.cmdCancel entry) s =
    blockEvent (actCmdOf 3 entry) s := rfl
@[simp] theorem exec_cmdBlock (entry : Nat) (s : State) : exec (.cmdBlock entry) s =
    blockEvent (actCmdOf 4 entry) s := rfl
@[simp] theorem exec_cmdUnblock (entry : Nat) (s : State) : exec (.cmdUnblock entry) s =
    blockEvent (actCmdOf 5 entry) s := rfl
@[simp] theorem exec_cmdPause (entry : Nat) (s : State) : exec (.cmdPause entry) s =
    blockEvent (actCmdOf 6 entry) s := rfl
@[simp] theorem exec_cmdChunk (entry : Nat) (s : State) : exec (.cmdChunk entry) s =
    blockEvent (actCmdOf 7 entry) s := rfl
@[simp] theorem exec_cmdExport (entry : Nat) (s : State) : exec (.cmdExport entry) s =
    blockEvent (actCmdOf 8 entry) s := rfl
@[simp] theorem exec_cmdRelease (entry : Nat) (s : State) : exec (.cmdRelease entry) s =
    blockEvent (actCmdOf 9 entry) s := rfl
@[simp] theorem exec_cmdClear (entry : Nat) (s : State) : exec (.cmdClear entry) s =
    blockEvent (actCmdOf 10 entry) s := rfl
@[simp] theorem exec_spillCancel (dir : Nat) (s : State) : exec (.spillCancel dir) s =
    blockEvent (actDirOf 3 dir) s := rfl
@[simp] theorem exec_spillBlock (dir : Nat) (s : State) : exec (.spillBlock dir) s =
    blockEvent (actDirOf 4 dir) s := rfl
@[simp] theorem exec_spillUnblock (dir : Nat) (s : State) : exec (.spillUnblock dir) s =
    blockEvent (actDirOf 5 dir) s := rfl
@[simp] theorem exec_resume (dir : Nat) (s : State) : exec (.resume dir) s =
    blockEvent (actDirOf 7 dir) s := rfl
@[simp] theorem exec_spillRelease (dir : Nat) (s : State) : exec (.spillRelease dir) s =
    blockEvent (actDirOf 9 dir) s := rfl
@[simp] theorem exec_ttlExpiry (dir : Nat) (s : State) : exec (.ttlExpiry dir) s =
    blockEvent (expireDirOf dir) s := rfl
@[simp] theorem exec_transferDone (entry : Nat) (s : State) : exec (.transferDone entry) s =
    blockEvent (transferDone entry) s := rfl
@[simp] theorem exec_grant (tenant : BitVec 10) (data : Word) (par : BitVec 4) (s : State) : exec (.grant tenant data par) s =
    portCommand (0xFC000C + tenant.toNat * 0x40) data par s := rfl
@[simp] theorem exec_faultClear (tenant : BitVec 10) (data : Word) (par : BitVec 4) (s : State) : exec (.faultClear tenant data par) s =
    portCommand (0x100008 + tenant.toNat * 0x1000) data par s := rfl
@[simp] theorem exec_tenantReset (tenant : BitVec 10) (data : Word) (par : BitVec 4) (s : State) : exec (.tenantReset tenant data par) s =
    portCommand (0x10002C + tenant.toNat * 0x1000) data par s := rfl
@[simp] theorem exec_progSwitch (data : Word) (par : BitVec 4) (s : State) : exec (.progSwitch data par) s =
    portCommand 0x007090 data par s := rfl
@[simp] theorem exec_freqSwitch (data : Word) (par : BitVec 4) (s : State) : exec (.freqSwitch data par) s =
    portCommand 0x007090 data par s := rfl
@[simp] theorem exec_sfuTableCheckDone (store : SfuStore) (s : State) : exec (.sfuTableCheckDone store) s =
    blockEvent (sfuCheckDone store) s := rfl
@[simp] theorem exec_maskSwitch (data : Word) (par : BitVec 4) (s : State) : exec (.maskSwitch data par) s =
    portCommand 0x008080 data par s := rfl
@[simp] theorem exec_autoSwitch (data : Word) (par : BitVec 4) (s : State) : exec (.autoSwitch data par) s =
    portCommand 0x008080 data par s := rfl
@[simp] theorem exec_biasSwitch (data : Word) (par : BitVec 4) (s : State) : exec (.biasSwitch data par) s =
    portCommand 0x008080 data par s := rfl
@[simp] theorem exec_penSwitch (data : Word) (par : BitVec 4) (s : State) : exec (.penSwitch data par) s =
    portCommand 0x008080 data par s := rfl
@[simp] theorem exec_selTableCheckDone (s : State) : exec (.selTableCheckDone) s =
    blockEvent selCheckDone s := rfl
@[simp] theorem exec_genGo (data : Word) (par : BitVec 4) (s : State) : exec (.genGo data par) s =
    portCommand 0x0090B0 data par s := rfl
@[simp] theorem exec_switch (data : Word) (par : BitVec 4) (s : State) : exec (.switch data par) s =
    portCommand 0x003008 data par s := rfl
@[simp] theorem exec_rollback (data : Word) (par : BitVec 4) (s : State) : exec (.rollback data par) s =
    portCommand 0x003008 data par s := rfl
@[simp] theorem exec_cfgCheckDone (s : State) : exec (.cfgCheckDone) s =
    blockEvent cfgCheckDone s := rfl
@[simp] theorem exec_confirm (data : Word) (par : BitVec 4) (s : State) : exec (.confirm data par) s =
    portCommand 0x003008 data par s := rfl
@[simp] theorem exec_loadGo (data : Word) (par : BitVec 4) (s : State) : exec (.loadGo data par) s =
    portCommand 0x003008 data par s := rfl
@[simp] theorem exec_loadBeat (s : State) : exec (.loadBeat) s =
    blockEvent loadBeat s := rfl
@[simp] theorem exec_repairApply (data : Word) (par : BitVec 4) (s : State) : exec (.repairApply data par) s =
    portCommand 0x003008 data par s := rfl
@[simp] theorem exec_repairApplyDone (s : State) : exec (.repairApplyDone) s =
    blockEvent repairApplyDone s := rfl
@[simp] theorem exec_corrClear (data : Word) (par : BitVec 4) (s : State) : exec (.corrClear data par) s =
    portCommand 0x002008 data par s := rfl
@[simp] theorem exec_stateReqRun (data : Word) (par : BitVec 4) (s : State) : exec (.stateReqRun data par) s =
    portCommand 0x002080 data par s := rfl
@[simp] theorem exec_stateReqDrain (data : Word) (par : BitVec 4) (s : State) : exec (.stateReqDrain data par) s =
    portCommand 0x002080 data par s := rfl
@[simp] theorem exec_stateReqRetain (data : Word) (par : BitVec 4) (s : State) : exec (.stateReqRetain data par) s =
    portCommand 0x002080 data par s := rfl
@[simp] theorem exec_stateReqOff (data : Word) (par : BitVec 4) (s : State) : exec (.stateReqOff data par) s =
    portCommand 0x002080 data par s := rfl
@[simp] theorem exec_cmpIsolated (s : State) : exec (.cmpIsolated) s =
    blockEvent cmpIsolatedNow s := rfl
@[simp] theorem exec_forceFault (data : Word) (par : BitVec 4) (s : State) : exec (.forceFault data par) s =
    portCommand 0x000008 data par s := rfl
@[simp] theorem exec_blockSoftReset (data : Word) (par : BitVec 4) (s : State) : exec (.blockSoftReset data par) s =
    portCommand 0x00002C data par s := rfl
@[simp] theorem exec_resetComplete (s : State) : exec (.resetComplete) s =
    blockEvent resetComplete s := rfl
@[simp] theorem exec_pageSoftReset (page : BitVec 12) (data : Word) (par : BitVec 4) (s : State) : exec (.pageSoftReset page data par) s =
    portCommand (page.toNat * 0x1000 + 0x02C) data par s := rfl
@[simp] theorem exec_gateRequest (page : BitVec 12) (data : Word) (par : BitVec 4) (s : State) : exec (.gateRequest page data par) s =
    portCommand (page.toNat * 0x1000 + 0x028) data par s := rfl
@[simp] theorem exec_wakeRequest (page : BitVec 12) (data : Word) (par : BitVec 4) (s : State) : exec (.wakeRequest page data par) s =
    portCommand (page.toNat * 0x1000 + 0x028) data par s := rfl
@[simp] theorem exec_gateEffect (page : BitVec 12) (s : State) : exec (.gateEffect page) s =
    blockEvent (atPage page gateEffect) s := rfl
@[simp] theorem exec_wakeDone (page : BitVec 12) (s : State) : exec (.wakeDone page) s =
    blockEvent (atPage page wakeDone) s := rfl
@[simp] theorem exec_usePllSet (data : Word) (par : BitVec 4) (s : State) : exec (.usePllSet data par) s =
    portCommand 0x001008 data par s := rfl
@[simp] theorem exec_haltClear (data : Word) (par : BitVec 4) (s : State) : exec (.haltClear data par) s =
    portCommand 0x00C008 data par s := rfl
@[simp] theorem exec_xltRetry (data : Word) (par : BitVec 4) (s : State) : exec (.xltRetry data par) s =
    portCommand 0x00B080 data par s := rfl
@[simp] theorem exec_xltAbort (data : Word) (par : BitVec 4) (s : State) : exec (.xltAbort data par) s =
    portCommand 0x00B080 data par s := rfl
@[simp] theorem exec_fqPop (data : Word) (par : BitVec 4) (s : State) : exec (.fqPop data par) s =
    portCommand 0x00B098 data par s := rfl
@[simp] theorem exec_invalGo (data : Word) (par : BitVec 4) (s : State) : exec (.invalGo data par) s =
    portCommand 0x00B084 data par s := rfl
@[simp] theorem exec_invalDone (s : State) : exec (.invalDone) s =
    blockEvent invalEnd s := rfl
@[simp] theorem exec_ridgeFrameRx (bytes : List Byte) (damaged : RxWire) (m : Measure) (s : State) : exec (.ridgeFrameRx bytes damaged m) s =
    portEvent (rdgOn (frameRx bytes damaged m)) s := rfl
@[simp] theorem exec_batchMessage (m : Measure) (s : State) : exec (.batchMessage m) s =
    blockEvent (rdgOn (batchMessage m)) s := rfl
@[simp] theorem exec_pullMessage (s : State) : exec (.pullMessage) s =
    blockEvent (rdgOn pullMessage) s := rfl
@[simp] theorem exec_partMessage (src : Nat) (m : Measure) (s : State) : exec (.partMessage src m) s =
    blockEvent (rdgOn (partMessage src m)) s := rfl
@[simp] theorem exec_nakMessage (src : Nat) (s : State) : exec (.nakMessage src) s =
    blockEvent (rdgOn (nakMessage src)) s := rfl
@[simp] theorem exec_rescanMessage (s : State) : exec (.rescanMessage) s =
    blockEvent (rdgOn rescanMessage) s := rfl
@[simp] theorem exec_windowMessage (src : Nat) (m : Measure) (s : State) : exec (.windowMessage src m) s =
    blockEvent (rdgOn (windowMessage src m)) s := rfl
@[simp] theorem exec_commitMessage (s : State) : exec (.commitMessage) s =
    blockEvent (rdgOn commitMessage) s := rfl
@[simp] theorem exec_abandonMessage (m : Measure) (s : State) : exec (.abandonMessage m) s =
    blockEvent (rdgOn (abandonMessage m)) s := rfl
@[simp] theorem exec_absentMessage (src : Nat) (m : Measure) (s : State) : exec (.absentMessage src m) s =
    blockEvent (rdgOn (absentMessage src m)) s := rfl
@[simp] theorem exec_nakWaitExpiry (m : Measure) (s : State) : exec (.nakWaitExpiry m) s =
    blockEvent (rdgOn (nakExpiry m)) s := rfl
@[simp] theorem exec_ridgeTimeout (m : Measure) (s : State) : exec (.ridgeTimeout m) s =
    blockEvent (rdgOn (ridgeTimeout m)) s := rfl
@[simp] theorem exec_rstNAssert (s : State) : exec (.rstNAssert) s =
    mission (fun b => settle (rstAssert b)) s := rfl
@[simp] theorem exec_rstNDeassert (strap : BitVec 4) (s : State) : exec (.rstNDeassert strap) s =
    mission (fun b => settle (rstRelease strap.toNat b)) s := rfl
@[simp] theorem exec_sramInitDone (s : State) : exec (.sramInitDone) s =
    mission (fun b => settle (sramInitDone b)) s := rfl
@[simp] theorem exec_pgCmpFall (s : State) : exec (.pgCmpFall) s =
    mission (fun b => settle (cmpFall b)) s := rfl
@[simp] theorem exec_pgCmpRise (s : State) : exec (.pgCmpRise) s =
    mission (fun b => settle (cmpRise b)) s := rfl
@[simp] theorem exec_pgBaseFall (rail : BaseRail) (s : State) : exec (.pgBaseFall rail) s =
    mission (fun b => settle (railFall rail b)) s := rfl
@[simp] theorem exec_pgMtrFall (s : State) : exec (.pgMtrFall) s =
    .next (mtrFall s) := rfl
@[simp] theorem exec_pgMtrRise (s : State) : exec (.pgMtrRise) s =
    .next (mtrRise s) := rfl
@[simp] theorem exec_testModeRise (s : State) : exec (.testModeRise) s =
    .next (testRise s) := rfl
@[simp] theorem exec_dawnWindow (count : BitVec 16) (s : State) : exec (.dawnWindow count) s =
    mission (fun b => settle (dawnWindow count.toNat b)) s := rfl
@[simp] theorem exec_dawnStrapExpiry (s : State) : exec (.dawnStrapExpiry) s =
    mission (fun b => settle (dawnStrap b)) s := rfl
@[simp] theorem exec_pllLock (s : State) : exec (.pllLock) s =
    mission (fun b => settle (pllLocked b)) s := rfl
@[simp] theorem exec_monitorTrip (cause : MonCause) (s : State) : exec (.monitorTrip cause) s =
    mission (fun b => settle (monitorTrip cause b)) s := rfl
@[simp] theorem exec_dividerRampStep (s : State) : exec (.dividerRampStep) s =
    mission (fun b => settle (dividerStep b)) s := rfl
@[simp] theorem exec_rampSlotEnd (s : State) : exec (.rampSlotEnd) s =
    mission (fun b => settle (rampSlotEnd b)) s := rfl
@[simp] theorem exec_thermalEval (temp : BitVec 8) (sensor : BitVec 4) (watts remaining : Nat) (s : State) : exec (.thermalEval temp sensor watts remaining) s =
    mission (fun b => settle (thermalEval temp.toNat sensor.toNat watts remaining b)) s := rfl
@[simp] theorem exec_sealKeyByte (byte : Byte) (last : Bool) (s : State) : exec (.sealKeyByte byte last) s =
    .next (sealKey byte last s) := rfl
@[simp] theorem exec_intent (bad : Bool) (s : State) : exec (.intent bad) s =
    .next (receive0 0 isIntent bad s) := rfl
@[simp] theorem exec_confirmStrobe (bad : Bool) (s : State) : exec (.confirmStrobe bad) s =
    .next (receive0 0 isConfirm bad s) := rfl
@[simp] theorem exec_strobeCancel (bad : Bool) (s : State) : exec (.strobeCancel bad) s =
    .next (receive0 0 isCancel bad s) := rfl
@[simp] theorem exec_discard (bad : Bool) (s : State) : exec (.discard bad) s =
    .next (receive0 0 isDiscard bad s) := rfl
@[simp] theorem exec_openDrop (bad : Bool) (s : State) : exec (.openDrop bad) s =
    .next (receive0 0 isOpenDrop bad s) := rfl
@[simp] theorem exec_stepRows (bad : Bool) (s : State) : exec (.stepRows bad) s =
    .next (receive0 0 isStepRows bad s) := rfl
@[simp] theorem exec_stepEnd (rails : Rails) (bad : Bool) (s : State) : exec (.stepEnd rails bad) s =
    .next (receive 0 isStepEnd rails bad s) := rfl
@[simp] theorem exec_idle (rails : Rails) (bad : Bool) (s : State) : exec (.idle rails bad) s =
    .next (receive 0 isIdle rails bad s) := rfl
@[simp] theorem exec_countStrobe (bad : Bool) (s : State) : exec (.countStrobe bad) s =
    .next (receive0 1 isCount bad s) := rfl
@[simp] theorem exec_clockStrobe (bad : Bool) (s : State) : exec (.clockStrobe bad) s =
    .next (receive0 2 isClock bad s) := rfl
@[simp] theorem exec_recMaxExpiry (s : State) : exec (.recMaxExpiry) s =
    .next ({ s with isl := recMax s.isl }) := rfl
@[simp] theorem exec_cairnRecord (s : State) : exec (.cairnRecord) s =
    .next ({ s with isl := cairnStart s.isl }) := rfl
@[simp] theorem exec_cairnRecordEnd (s : State) : exec (.cairnRecordEnd) s =
    .next (cairnEnd s) := rfl
@[simp] theorem exec_mcSyncRiseInWord (s : State) : exec (.mcSyncRiseInWord) s =
    mission syncInWord s := rfl
@[simp] theorem exec_pgBaseRise (rail : BaseRail) (s : State) : exec (.pgBaseRise rail) s =
    mission (fun b => settle (railRise rail b)) s := rfl
@[simp] theorem exec_refclkFirstEdge (s : State) : exec (.refclkFirstEdge) s =
    mission (fun b => settle (refclkEdge b)) s := rfl

end Sys2Proof.Laws
end

