-- ==== Sys2Proof/Laws/State.lean ====
section
/-! SUPPORT. What each update leaves as it was: one lemma per field of the block per update, so that no later proof
unfolds a record update. -/

namespace Sys2Proof.Laws

open Machine

variable (s : Block)

@[simp] theorem irqRaise_grade (p : Page) (k : Nat) : (irqRaise p k s).grade = s.grade := rfl
@[simp] theorem irqRaise_testMode (p : Page) (k : Nat) : (irqRaise p k s).testMode = s.testMode := rfl
@[simp] theorem irqRaise_stores (p : Page) (k : Nat) : (irqRaise p k s).stores = s.stores := rfl
@[simp] theorem irqRaise_epochs (p : Page) (k : Nat) : (irqRaise p k s).epochs = s.epochs := rfl
@[simp] theorem irqRaise_cfg (p : Page) (k : Nat) : (irqRaise p k s).cfg = s.cfg := rfl
@[simp] theorem irqRaise_pwr (p : Page) (k : Nat) : (irqRaise p k s).pwr = s.pwr := rfl
@[simp] theorem irqRaise_mem (p : Page) (k : Nat) : (irqRaise p k s).mem = s.mem := rfl
@[simp] theorem irqRaise_rdg (p : Page) (k : Nat) : (irqRaise p k s).rdg = s.rdg := rfl
@[simp] theorem irqRaise_step (p : Page) (k : Nat) : (irqRaise p k s).step = s.step := rfl
@[simp] theorem irqRaise_fault (p : Page) (k : Nat) : (irqRaise p k s).fault = s.fault := rfl
@[simp] theorem irqRaise_faultCode (p : Page) (k : Nat) : (irqRaise p k s).faultCode = s.faultCode := rfl
@[simp] theorem irqRaise_faultAddr (p : Page) (k : Nat) : (irqRaise p k s).faultAddr = s.faultAddr := rfl
@[simp] theorem irqRaise_sramInit (p : Page) (k : Nat) : (irqRaise p k s).sramInit = s.sramInit := rfl
@[simp] theorem irqRaise_resetting (p : Page) (k : Nat) : (irqRaise p k s).resetting = s.resetting := rfl
@[simp] theorem irqRaise_launched (p : Page) (k : Nat) : (irqRaise p k s).launched = s.launched := rfl
@[simp] theorem irqRaise_count (p : Page) (k : Nat) : (irqRaise p k s).count = s.count := rfl
@[simp] theorem irqRaise_mcTick (p : Page) (k : Nat) : (irqRaise p k s).mcTick = s.mcTick := rfl
@[simp] theorem irqRaise_goodRun (p : Page) (k : Nat) : (irqRaise p k s).goodRun = s.goodRun := rfl
@[simp] theorem irqRaise_launchQ (p : Page) (k : Nat) : (irqRaise p k s).launchQ = s.launchQ := rfl
@[simp] theorem irqRaise_host (p : Page) (k : Nat) : (irqRaise p k s).host = s.host := rfl
@[simp] theorem irqRaise_dirHost (p : Page) (k : Nat) : (irqRaise p k s).dirHost = s.dirHost := rfl
@[simp] theorem irqRaise_entries (p : Page) (k : Nat) : (irqRaise p k s).entries = s.entries := rfl
@[simp] theorem irqRaise_dir (p : Page) (k : Nat) : (irqRaise p k s).dir = s.dir := rfl
@[simp] theorem irqRaise_used (p : Page) (k : Nat) : (irqRaise p k s).used = s.used := rfl
@[simp] theorem irqRaise_counters (p : Page) (k : Nat) : (irqRaise p k s).counters = s.counters := rfl
@[simp] theorem irqRaise_batchSeq (p : Page) (k : Nat) : (irqRaise p k s).batchSeq = s.batchSeq := rfl
@[simp] theorem irqRaise_leftPages (p : Page) (k : Nat) : (irqRaise p k s).leftPages = s.leftPages := rfl
@[simp] theorem irqRaise_tenants (p : Page) (k : Nat) : (irqRaise p k s).tenants = s.tenants := rfl
@[simp] theorem irqRaise_lastRefill (p : Page) (k : Nat) : (irqRaise p k s).lastRefill = s.lastRefill := rfl
@[simp] theorem irqRaise_forming (p : Page) (k : Nat) : (irqRaise p k s).forming = s.forming := rfl
@[simp] theorem irqRaise_formed (p : Page) (k : Nat) : (irqRaise p k s).formed = s.formed := rfl
@[simp] theorem irqRaise_ctx0 (p : Page) (k : Nat) : (irqRaise p k s).ctx0 = s.ctx0 := rfl
@[simp] theorem irqRaise_ctx1 (p : Page) (k : Nat) : (irqRaise p k s).ctx1 = s.ctx1 := rfl
@[simp] theorem irqRaise_running (p : Page) (k : Nat) : (irqRaise p k s).running = s.running := rfl
@[simp] theorem irqRaise_arrays (p : Page) (k : Nat) : (irqRaise p k s).arrays = s.arrays := rfl
@[simp] theorem irqRaise_nArr (p : Page) (k : Nat) : (irqRaise p k s).nArr = s.nArr := rfl
@[simp] theorem irqRaise_repairs (p : Page) (k : Nat) : (irqRaise p k s).repairs = s.repairs := rfl
@[simp] theorem irqRaise_strobes (p : Page) (k : Nat) : (irqRaise p k s).strobes = s.strobes := rfl
@[simp] theorem irqRaise_mirror (p : Page) (k : Nat) : (irqRaise p k s).mirror = s.mirror := rfl
@[simp] theorem irqRaise_out (p : Page) (k : Nat) : (irqRaise p k s).out = s.out := rfl
@[simp] theorem irqRaise_fresh (p : Page) (k : Nat) : (irqRaise p k s).fresh = s.fresh := rfl

@[simp] theorem irqClear_grade (p : Page) (w : Word) : (irqClear p w s).grade = s.grade := rfl
@[simp] theorem irqClear_testMode (p : Page) (w : Word) : (irqClear p w s).testMode = s.testMode := rfl
@[simp] theorem irqClear_stores (p : Page) (w : Word) : (irqClear p w s).stores = s.stores := rfl
@[simp] theorem irqClear_epochs (p : Page) (w : Word) : (irqClear p w s).epochs = s.epochs := rfl
@[simp] theorem irqClear_cfg (p : Page) (w : Word) : (irqClear p w s).cfg = s.cfg := rfl
@[simp] theorem irqClear_pwr (p : Page) (w : Word) : (irqClear p w s).pwr = s.pwr := rfl
@[simp] theorem irqClear_mem (p : Page) (w : Word) : (irqClear p w s).mem = s.mem := rfl
@[simp] theorem irqClear_rdg (p : Page) (w : Word) : (irqClear p w s).rdg = s.rdg := rfl
@[simp] theorem irqClear_step (p : Page) (w : Word) : (irqClear p w s).step = s.step := rfl
@[simp] theorem irqClear_fault (p : Page) (w : Word) : (irqClear p w s).fault = s.fault := rfl
@[simp] theorem irqClear_faultCode (p : Page) (w : Word) : (irqClear p w s).faultCode = s.faultCode := rfl
@[simp] theorem irqClear_faultAddr (p : Page) (w : Word) : (irqClear p w s).faultAddr = s.faultAddr := rfl
@[simp] theorem irqClear_sramInit (p : Page) (w : Word) : (irqClear p w s).sramInit = s.sramInit := rfl
@[simp] theorem irqClear_resetting (p : Page) (w : Word) : (irqClear p w s).resetting = s.resetting := rfl
@[simp] theorem irqClear_launched (p : Page) (w : Word) : (irqClear p w s).launched = s.launched := rfl
@[simp] theorem irqClear_count (p : Page) (w : Word) : (irqClear p w s).count = s.count := rfl
@[simp] theorem irqClear_mcTick (p : Page) (w : Word) : (irqClear p w s).mcTick = s.mcTick := rfl
@[simp] theorem irqClear_goodRun (p : Page) (w : Word) : (irqClear p w s).goodRun = s.goodRun := rfl
@[simp] theorem irqClear_launchQ (p : Page) (w : Word) : (irqClear p w s).launchQ = s.launchQ := rfl
@[simp] theorem irqClear_host (p : Page) (w : Word) : (irqClear p w s).host = s.host := rfl
@[simp] theorem irqClear_dirHost (p : Page) (w : Word) : (irqClear p w s).dirHost = s.dirHost := rfl
@[simp] theorem irqClear_entries (p : Page) (w : Word) : (irqClear p w s).entries = s.entries := rfl
@[simp] theorem irqClear_dir (p : Page) (w : Word) : (irqClear p w s).dir = s.dir := rfl
@[simp] theorem irqClear_used (p : Page) (w : Word) : (irqClear p w s).used = s.used := rfl
@[simp] theorem irqClear_counters (p : Page) (w : Word) : (irqClear p w s).counters = s.counters := rfl
@[simp] theorem irqClear_batchSeq (p : Page) (w : Word) : (irqClear p w s).batchSeq = s.batchSeq := rfl
@[simp] theorem irqClear_leftPages (p : Page) (w : Word) : (irqClear p w s).leftPages = s.leftPages := rfl
@[simp] theorem irqClear_tenants (p : Page) (w : Word) : (irqClear p w s).tenants = s.tenants := rfl
@[simp] theorem irqClear_lastRefill (p : Page) (w : Word) : (irqClear p w s).lastRefill = s.lastRefill := rfl
@[simp] theorem irqClear_forming (p : Page) (w : Word) : (irqClear p w s).forming = s.forming := rfl
@[simp] theorem irqClear_formed (p : Page) (w : Word) : (irqClear p w s).formed = s.formed := rfl
@[simp] theorem irqClear_ctx0 (p : Page) (w : Word) : (irqClear p w s).ctx0 = s.ctx0 := rfl
@[simp] theorem irqClear_ctx1 (p : Page) (w : Word) : (irqClear p w s).ctx1 = s.ctx1 := rfl
@[simp] theorem irqClear_running (p : Page) (w : Word) : (irqClear p w s).running = s.running := rfl
@[simp] theorem irqClear_arrays (p : Page) (w : Word) : (irqClear p w s).arrays = s.arrays := rfl
@[simp] theorem irqClear_nArr (p : Page) (w : Word) : (irqClear p w s).nArr = s.nArr := rfl
@[simp] theorem irqClear_repairs (p : Page) (w : Word) : (irqClear p w s).repairs = s.repairs := rfl
@[simp] theorem irqClear_strobes (p : Page) (w : Word) : (irqClear p w s).strobes = s.strobes := rfl
@[simp] theorem irqClear_mirror (p : Page) (w : Word) : (irqClear p w s).mirror = s.mirror := rfl
@[simp] theorem irqClear_out (p : Page) (w : Word) : (irqClear p w s).out = s.out := rfl
@[simp] theorem irqClear_fresh (p : Page) (w : Word) : (irqClear p w s).fresh = s.fresh := rfl

@[simp] theorem flagRaise_grade (p : Page) (k : Nat) : (flagRaise p k s).grade = s.grade := rfl
@[simp] theorem flagRaise_testMode (p : Page) (k : Nat) : (flagRaise p k s).testMode = s.testMode := rfl
@[simp] theorem flagRaise_stores (p : Page) (k : Nat) : (flagRaise p k s).stores = s.stores := rfl
@[simp] theorem flagRaise_epochs (p : Page) (k : Nat) : (flagRaise p k s).epochs = s.epochs := rfl
@[simp] theorem flagRaise_cfg (p : Page) (k : Nat) : (flagRaise p k s).cfg = s.cfg := rfl
@[simp] theorem flagRaise_pwr (p : Page) (k : Nat) : (flagRaise p k s).pwr = s.pwr := rfl
@[simp] theorem flagRaise_mem (p : Page) (k : Nat) : (flagRaise p k s).mem = s.mem := rfl
@[simp] theorem flagRaise_rdg (p : Page) (k : Nat) : (flagRaise p k s).rdg = s.rdg := rfl
@[simp] theorem flagRaise_step (p : Page) (k : Nat) : (flagRaise p k s).step = s.step := rfl
@[simp] theorem flagRaise_fault (p : Page) (k : Nat) : (flagRaise p k s).fault = s.fault := rfl
@[simp] theorem flagRaise_faultCode (p : Page) (k : Nat) : (flagRaise p k s).faultCode = s.faultCode := rfl
@[simp] theorem flagRaise_faultAddr (p : Page) (k : Nat) : (flagRaise p k s).faultAddr = s.faultAddr := rfl
@[simp] theorem flagRaise_sramInit (p : Page) (k : Nat) : (flagRaise p k s).sramInit = s.sramInit := rfl
@[simp] theorem flagRaise_resetting (p : Page) (k : Nat) : (flagRaise p k s).resetting = s.resetting := rfl
@[simp] theorem flagRaise_launched (p : Page) (k : Nat) : (flagRaise p k s).launched = s.launched := rfl
@[simp] theorem flagRaise_count (p : Page) (k : Nat) : (flagRaise p k s).count = s.count := rfl
@[simp] theorem flagRaise_mcTick (p : Page) (k : Nat) : (flagRaise p k s).mcTick = s.mcTick := rfl
@[simp] theorem flagRaise_goodRun (p : Page) (k : Nat) : (flagRaise p k s).goodRun = s.goodRun := rfl
@[simp] theorem flagRaise_launchQ (p : Page) (k : Nat) : (flagRaise p k s).launchQ = s.launchQ := rfl
@[simp] theorem flagRaise_host (p : Page) (k : Nat) : (flagRaise p k s).host = s.host := rfl
@[simp] theorem flagRaise_dirHost (p : Page) (k : Nat) : (flagRaise p k s).dirHost = s.dirHost := rfl
@[simp] theorem flagRaise_entries (p : Page) (k : Nat) : (flagRaise p k s).entries = s.entries := rfl
@[simp] theorem flagRaise_dir (p : Page) (k : Nat) : (flagRaise p k s).dir = s.dir := rfl
@[simp] theorem flagRaise_used (p : Page) (k : Nat) : (flagRaise p k s).used = s.used := rfl
@[simp] theorem flagRaise_counters (p : Page) (k : Nat) : (flagRaise p k s).counters = s.counters := rfl
@[simp] theorem flagRaise_batchSeq (p : Page) (k : Nat) : (flagRaise p k s).batchSeq = s.batchSeq := rfl
@[simp] theorem flagRaise_leftPages (p : Page) (k : Nat) : (flagRaise p k s).leftPages = s.leftPages := rfl
@[simp] theorem flagRaise_tenants (p : Page) (k : Nat) : (flagRaise p k s).tenants = s.tenants := rfl
@[simp] theorem flagRaise_lastRefill (p : Page) (k : Nat) : (flagRaise p k s).lastRefill = s.lastRefill := rfl
@[simp] theorem flagRaise_forming (p : Page) (k : Nat) : (flagRaise p k s).forming = s.forming := rfl
@[simp] theorem flagRaise_formed (p : Page) (k : Nat) : (flagRaise p k s).formed = s.formed := rfl
@[simp] theorem flagRaise_ctx0 (p : Page) (k : Nat) : (flagRaise p k s).ctx0 = s.ctx0 := rfl
@[simp] theorem flagRaise_ctx1 (p : Page) (k : Nat) : (flagRaise p k s).ctx1 = s.ctx1 := rfl
@[simp] theorem flagRaise_running (p : Page) (k : Nat) : (flagRaise p k s).running = s.running := rfl
@[simp] theorem flagRaise_arrays (p : Page) (k : Nat) : (flagRaise p k s).arrays = s.arrays := rfl
@[simp] theorem flagRaise_nArr (p : Page) (k : Nat) : (flagRaise p k s).nArr = s.nArr := rfl
@[simp] theorem flagRaise_repairs (p : Page) (k : Nat) : (flagRaise p k s).repairs = s.repairs := rfl
@[simp] theorem flagRaise_strobes (p : Page) (k : Nat) : (flagRaise p k s).strobes = s.strobes := rfl
@[simp] theorem flagRaise_mirror (p : Page) (k : Nat) : (flagRaise p k s).mirror = s.mirror := rfl
@[simp] theorem flagRaise_out (p : Page) (k : Nat) : (flagRaise p k s).out = s.out := rfl
@[simp] theorem flagRaise_fresh (p : Page) (k : Nat) : (flagRaise p k s).fresh = s.fresh := rfl

@[simp] theorem flagClear_grade (p : Page) (w : Word) : (flagClear p w s).grade = s.grade := rfl
@[simp] theorem flagClear_testMode (p : Page) (w : Word) : (flagClear p w s).testMode = s.testMode := rfl
@[simp] theorem flagClear_stores (p : Page) (w : Word) : (flagClear p w s).stores = s.stores := rfl
@[simp] theorem flagClear_epochs (p : Page) (w : Word) : (flagClear p w s).epochs = s.epochs := rfl
@[simp] theorem flagClear_cfg (p : Page) (w : Word) : (flagClear p w s).cfg = s.cfg := rfl
@[simp] theorem flagClear_pwr (p : Page) (w : Word) : (flagClear p w s).pwr = s.pwr := rfl
@[simp] theorem flagClear_mem (p : Page) (w : Word) : (flagClear p w s).mem = s.mem := rfl
@[simp] theorem flagClear_rdg (p : Page) (w : Word) : (flagClear p w s).rdg = s.rdg := rfl
@[simp] theorem flagClear_step (p : Page) (w : Word) : (flagClear p w s).step = s.step := rfl
@[simp] theorem flagClear_fault (p : Page) (w : Word) : (flagClear p w s).fault = s.fault := rfl
@[simp] theorem flagClear_faultCode (p : Page) (w : Word) : (flagClear p w s).faultCode = s.faultCode := rfl
@[simp] theorem flagClear_faultAddr (p : Page) (w : Word) : (flagClear p w s).faultAddr = s.faultAddr := rfl
@[simp] theorem flagClear_sramInit (p : Page) (w : Word) : (flagClear p w s).sramInit = s.sramInit := rfl
@[simp] theorem flagClear_resetting (p : Page) (w : Word) : (flagClear p w s).resetting = s.resetting := rfl
@[simp] theorem flagClear_launched (p : Page) (w : Word) : (flagClear p w s).launched = s.launched := rfl
@[simp] theorem flagClear_count (p : Page) (w : Word) : (flagClear p w s).count = s.count := rfl
@[simp] theorem flagClear_mcTick (p : Page) (w : Word) : (flagClear p w s).mcTick = s.mcTick := rfl
@[simp] theorem flagClear_goodRun (p : Page) (w : Word) : (flagClear p w s).goodRun = s.goodRun := rfl
@[simp] theorem flagClear_launchQ (p : Page) (w : Word) : (flagClear p w s).launchQ = s.launchQ := rfl
@[simp] theorem flagClear_host (p : Page) (w : Word) : (flagClear p w s).host = s.host := rfl
@[simp] theorem flagClear_dirHost (p : Page) (w : Word) : (flagClear p w s).dirHost = s.dirHost := rfl
@[simp] theorem flagClear_entries (p : Page) (w : Word) : (flagClear p w s).entries = s.entries := rfl
@[simp] theorem flagClear_dir (p : Page) (w : Word) : (flagClear p w s).dir = s.dir := rfl
@[simp] theorem flagClear_used (p : Page) (w : Word) : (flagClear p w s).used = s.used := rfl
@[simp] theorem flagClear_counters (p : Page) (w : Word) : (flagClear p w s).counters = s.counters := rfl
@[simp] theorem flagClear_batchSeq (p : Page) (w : Word) : (flagClear p w s).batchSeq = s.batchSeq := rfl
@[simp] theorem flagClear_leftPages (p : Page) (w : Word) : (flagClear p w s).leftPages = s.leftPages := rfl
@[simp] theorem flagClear_tenants (p : Page) (w : Word) : (flagClear p w s).tenants = s.tenants := rfl
@[simp] theorem flagClear_lastRefill (p : Page) (w : Word) : (flagClear p w s).lastRefill = s.lastRefill := rfl
@[simp] theorem flagClear_forming (p : Page) (w : Word) : (flagClear p w s).forming = s.forming := rfl
@[simp] theorem flagClear_formed (p : Page) (w : Word) : (flagClear p w s).formed = s.formed := rfl
@[simp] theorem flagClear_ctx0 (p : Page) (w : Word) : (flagClear p w s).ctx0 = s.ctx0 := rfl
@[simp] theorem flagClear_ctx1 (p : Page) (w : Word) : (flagClear p w s).ctx1 = s.ctx1 := rfl
@[simp] theorem flagClear_running (p : Page) (w : Word) : (flagClear p w s).running = s.running := rfl
@[simp] theorem flagClear_arrays (p : Page) (w : Word) : (flagClear p w s).arrays = s.arrays := rfl
@[simp] theorem flagClear_nArr (p : Page) (w : Word) : (flagClear p w s).nArr = s.nArr := rfl
@[simp] theorem flagClear_repairs (p : Page) (w : Word) : (flagClear p w s).repairs = s.repairs := rfl
@[simp] theorem flagClear_strobes (p : Page) (w : Word) : (flagClear p w s).strobes = s.strobes := rfl
@[simp] theorem flagClear_mirror (p : Page) (w : Word) : (flagClear p w s).mirror = s.mirror := rfl
@[simp] theorem flagClear_out (p : Page) (w : Word) : (flagClear p w s).out = s.out := rfl
@[simp] theorem flagClear_fresh (p : Page) (w : Word) : (flagClear p w s).fresh = s.fresh := rfl

@[simp] theorem countUp_grade (a n : Nat) : (countUp a n s).grade = s.grade := rfl
@[simp] theorem countUp_testMode (a n : Nat) : (countUp a n s).testMode = s.testMode := rfl
@[simp] theorem countUp_stores (a n : Nat) : (countUp a n s).stores = s.stores := rfl
@[simp] theorem countUp_epochs (a n : Nat) : (countUp a n s).epochs = s.epochs := rfl
@[simp] theorem countUp_cfg (a n : Nat) : (countUp a n s).cfg = s.cfg := rfl
@[simp] theorem countUp_pwr (a n : Nat) : (countUp a n s).pwr = s.pwr := rfl
@[simp] theorem countUp_mem (a n : Nat) : (countUp a n s).mem = s.mem := rfl
@[simp] theorem countUp_rdg (a n : Nat) : (countUp a n s).rdg = s.rdg := rfl
@[simp] theorem countUp_step (a n : Nat) : (countUp a n s).step = s.step := rfl
@[simp] theorem countUp_fault (a n : Nat) : (countUp a n s).fault = s.fault := rfl
@[simp] theorem countUp_faultCode (a n : Nat) : (countUp a n s).faultCode = s.faultCode := rfl
@[simp] theorem countUp_faultAddr (a n : Nat) : (countUp a n s).faultAddr = s.faultAddr := rfl
@[simp] theorem countUp_sramInit (a n : Nat) : (countUp a n s).sramInit = s.sramInit := rfl
@[simp] theorem countUp_resetting (a n : Nat) : (countUp a n s).resetting = s.resetting := rfl
@[simp] theorem countUp_launched (a n : Nat) : (countUp a n s).launched = s.launched := rfl
@[simp] theorem countUp_count (a n : Nat) : (countUp a n s).count = s.count := rfl
@[simp] theorem countUp_mcTick (a n : Nat) : (countUp a n s).mcTick = s.mcTick := rfl
@[simp] theorem countUp_goodRun (a n : Nat) : (countUp a n s).goodRun = s.goodRun := rfl
@[simp] theorem countUp_launchQ (a n : Nat) : (countUp a n s).launchQ = s.launchQ := rfl
@[simp] theorem countUp_host (a n : Nat) : (countUp a n s).host = s.host := rfl
@[simp] theorem countUp_dirHost (a n : Nat) : (countUp a n s).dirHost = s.dirHost := rfl
@[simp] theorem countUp_entries (a n : Nat) : (countUp a n s).entries = s.entries := rfl
@[simp] theorem countUp_dir (a n : Nat) : (countUp a n s).dir = s.dir := rfl
@[simp] theorem countUp_used (a n : Nat) : (countUp a n s).used = s.used := rfl
@[simp] theorem countUp_counters (a n : Nat) : (countUp a n s).counters = s.counters := rfl
@[simp] theorem countUp_batchSeq (a n : Nat) : (countUp a n s).batchSeq = s.batchSeq := rfl
@[simp] theorem countUp_leftPages (a n : Nat) : (countUp a n s).leftPages = s.leftPages := rfl
@[simp] theorem countUp_tenants (a n : Nat) : (countUp a n s).tenants = s.tenants := rfl
@[simp] theorem countUp_lastRefill (a n : Nat) : (countUp a n s).lastRefill = s.lastRefill := rfl
@[simp] theorem countUp_forming (a n : Nat) : (countUp a n s).forming = s.forming := rfl
@[simp] theorem countUp_formed (a n : Nat) : (countUp a n s).formed = s.formed := rfl
@[simp] theorem countUp_ctx0 (a n : Nat) : (countUp a n s).ctx0 = s.ctx0 := rfl
@[simp] theorem countUp_ctx1 (a n : Nat) : (countUp a n s).ctx1 = s.ctx1 := rfl
@[simp] theorem countUp_running (a n : Nat) : (countUp a n s).running = s.running := rfl
@[simp] theorem countUp_arrays (a n : Nat) : (countUp a n s).arrays = s.arrays := rfl
@[simp] theorem countUp_nArr (a n : Nat) : (countUp a n s).nArr = s.nArr := rfl
@[simp] theorem countUp_repairs (a n : Nat) : (countUp a n s).repairs = s.repairs := rfl
@[simp] theorem countUp_strobes (a n : Nat) : (countUp a n s).strobes = s.strobes := rfl
@[simp] theorem countUp_mirror (a n : Nat) : (countUp a n s).mirror = s.mirror := rfl
@[simp] theorem countUp_out (a n : Nat) : (countUp a n s).out = s.out := rfl
@[simp] theorem countUp_fresh (a n : Nat) : (countUp a n s).fresh = s.fresh := rfl

@[simp] theorem setWr_grade (a : Nat) (w : Word) : (setWr a w s).grade = s.grade := rfl
@[simp] theorem setWr_testMode (a : Nat) (w : Word) : (setWr a w s).testMode = s.testMode := rfl
@[simp] theorem setWr_stores (a : Nat) (w : Word) : (setWr a w s).stores = s.stores := rfl
@[simp] theorem setWr_epochs (a : Nat) (w : Word) : (setWr a w s).epochs = s.epochs := rfl
@[simp] theorem setWr_cfg (a : Nat) (w : Word) : (setWr a w s).cfg = s.cfg := rfl
@[simp] theorem setWr_pwr (a : Nat) (w : Word) : (setWr a w s).pwr = s.pwr := rfl
@[simp] theorem setWr_mem (a : Nat) (w : Word) : (setWr a w s).mem = s.mem := rfl
@[simp] theorem setWr_rdg (a : Nat) (w : Word) : (setWr a w s).rdg = s.rdg := rfl
@[simp] theorem setWr_step (a : Nat) (w : Word) : (setWr a w s).step = s.step := rfl
@[simp] theorem setWr_fault (a : Nat) (w : Word) : (setWr a w s).fault = s.fault := rfl
@[simp] theorem setWr_faultCode (a : Nat) (w : Word) : (setWr a w s).faultCode = s.faultCode := rfl
@[simp] theorem setWr_faultAddr (a : Nat) (w : Word) : (setWr a w s).faultAddr = s.faultAddr := rfl
@[simp] theorem setWr_sramInit (a : Nat) (w : Word) : (setWr a w s).sramInit = s.sramInit := rfl
@[simp] theorem setWr_resetting (a : Nat) (w : Word) : (setWr a w s).resetting = s.resetting := rfl
@[simp] theorem setWr_launched (a : Nat) (w : Word) : (setWr a w s).launched = s.launched := rfl
@[simp] theorem setWr_count (a : Nat) (w : Word) : (setWr a w s).count = s.count := rfl
@[simp] theorem setWr_mcTick (a : Nat) (w : Word) : (setWr a w s).mcTick = s.mcTick := rfl
@[simp] theorem setWr_goodRun (a : Nat) (w : Word) : (setWr a w s).goodRun = s.goodRun := rfl
@[simp] theorem setWr_launchQ (a : Nat) (w : Word) : (setWr a w s).launchQ = s.launchQ := rfl
@[simp] theorem setWr_host (a : Nat) (w : Word) : (setWr a w s).host = s.host := rfl
@[simp] theorem setWr_dirHost (a : Nat) (w : Word) : (setWr a w s).dirHost = s.dirHost := rfl
@[simp] theorem setWr_entries (a : Nat) (w : Word) : (setWr a w s).entries = s.entries := rfl
@[simp] theorem setWr_dir (a : Nat) (w : Word) : (setWr a w s).dir = s.dir := rfl
@[simp] theorem setWr_used (a : Nat) (w : Word) : (setWr a w s).used = s.used := rfl
@[simp] theorem setWr_counters (a : Nat) (w : Word) : (setWr a w s).counters = s.counters := rfl
@[simp] theorem setWr_batchSeq (a : Nat) (w : Word) : (setWr a w s).batchSeq = s.batchSeq := rfl
@[simp] theorem setWr_leftPages (a : Nat) (w : Word) : (setWr a w s).leftPages = s.leftPages := rfl
@[simp] theorem setWr_tenants (a : Nat) (w : Word) : (setWr a w s).tenants = s.tenants := rfl
@[simp] theorem setWr_lastRefill (a : Nat) (w : Word) : (setWr a w s).lastRefill = s.lastRefill := rfl
@[simp] theorem setWr_forming (a : Nat) (w : Word) : (setWr a w s).forming = s.forming := rfl
@[simp] theorem setWr_formed (a : Nat) (w : Word) : (setWr a w s).formed = s.formed := rfl
@[simp] theorem setWr_ctx0 (a : Nat) (w : Word) : (setWr a w s).ctx0 = s.ctx0 := rfl
@[simp] theorem setWr_ctx1 (a : Nat) (w : Word) : (setWr a w s).ctx1 = s.ctx1 := rfl
@[simp] theorem setWr_running (a : Nat) (w : Word) : (setWr a w s).running = s.running := rfl
@[simp] theorem setWr_arrays (a : Nat) (w : Word) : (setWr a w s).arrays = s.arrays := rfl
@[simp] theorem setWr_nArr (a : Nat) (w : Word) : (setWr a w s).nArr = s.nArr := rfl
@[simp] theorem setWr_repairs (a : Nat) (w : Word) : (setWr a w s).repairs = s.repairs := rfl
@[simp] theorem setWr_strobes (a : Nat) (w : Word) : (setWr a w s).strobes = s.strobes := rfl
@[simp] theorem setWr_mirror (a : Nat) (w : Word) : (setWr a w s).mirror = s.mirror := rfl
@[simp] theorem setWr_out (a : Nat) (w : Word) : (setWr a w s).out = s.out := rfl
@[simp] theorem setWr_fresh (a : Nat) (w : Word) : (setWr a w s).fresh = s.fresh := rfl

@[simp] theorem setEntry_grade (i : Nat) (e : Entry) : (setEntry i e s).grade = s.grade := rfl
@[simp] theorem setEntry_testMode (i : Nat) (e : Entry) : (setEntry i e s).testMode = s.testMode := rfl
@[simp] theorem setEntry_reg (i : Nat) (e : Entry) : (setEntry i e s).reg = s.reg := rfl
@[simp] theorem setEntry_stores (i : Nat) (e : Entry) : (setEntry i e s).stores = s.stores := rfl
@[simp] theorem setEntry_epochs (i : Nat) (e : Entry) : (setEntry i e s).epochs = s.epochs := rfl
@[simp] theorem setEntry_cfg (i : Nat) (e : Entry) : (setEntry i e s).cfg = s.cfg := rfl
@[simp] theorem setEntry_pwr (i : Nat) (e : Entry) : (setEntry i e s).pwr = s.pwr := rfl
@[simp] theorem setEntry_mem (i : Nat) (e : Entry) : (setEntry i e s).mem = s.mem := rfl
@[simp] theorem setEntry_rdg (i : Nat) (e : Entry) : (setEntry i e s).rdg = s.rdg := rfl
@[simp] theorem setEntry_step (i : Nat) (e : Entry) : (setEntry i e s).step = s.step := rfl
@[simp] theorem setEntry_fault (i : Nat) (e : Entry) : (setEntry i e s).fault = s.fault := rfl
@[simp] theorem setEntry_faultCode (i : Nat) (e : Entry) : (setEntry i e s).faultCode = s.faultCode := rfl
@[simp] theorem setEntry_faultAddr (i : Nat) (e : Entry) : (setEntry i e s).faultAddr = s.faultAddr := rfl
@[simp] theorem setEntry_sramInit (i : Nat) (e : Entry) : (setEntry i e s).sramInit = s.sramInit := rfl
@[simp] theorem setEntry_resetting (i : Nat) (e : Entry) : (setEntry i e s).resetting = s.resetting := rfl
@[simp] theorem setEntry_launched (i : Nat) (e : Entry) : (setEntry i e s).launched = s.launched := rfl
@[simp] theorem setEntry_count (i : Nat) (e : Entry) : (setEntry i e s).count = s.count := rfl
@[simp] theorem setEntry_mcTick (i : Nat) (e : Entry) : (setEntry i e s).mcTick = s.mcTick := rfl
@[simp] theorem setEntry_goodRun (i : Nat) (e : Entry) : (setEntry i e s).goodRun = s.goodRun := rfl
@[simp] theorem setEntry_launchQ (i : Nat) (e : Entry) : (setEntry i e s).launchQ = s.launchQ := rfl
@[simp] theorem setEntry_host (i : Nat) (e : Entry) : (setEntry i e s).host = s.host := rfl
@[simp] theorem setEntry_dirHost (i : Nat) (e : Entry) : (setEntry i e s).dirHost = s.dirHost := rfl
@[simp] theorem setEntry_dir (i : Nat) (e : Entry) : (setEntry i e s).dir = s.dir := rfl
@[simp] theorem setEntry_used (i : Nat) (e : Entry) : (setEntry i e s).used = s.used := rfl
@[simp] theorem setEntry_counters (i : Nat) (e : Entry) : (setEntry i e s).counters = s.counters := rfl
@[simp] theorem setEntry_batchSeq (i : Nat) (e : Entry) : (setEntry i e s).batchSeq = s.batchSeq := rfl
@[simp] theorem setEntry_leftPages (i : Nat) (e : Entry) : (setEntry i e s).leftPages = s.leftPages := rfl
@[simp] theorem setEntry_tenants (i : Nat) (e : Entry) : (setEntry i e s).tenants = s.tenants := rfl
@[simp] theorem setEntry_lastRefill (i : Nat) (e : Entry) : (setEntry i e s).lastRefill = s.lastRefill := rfl
@[simp] theorem setEntry_forming (i : Nat) (e : Entry) : (setEntry i e s).forming = s.forming := rfl
@[simp] theorem setEntry_formed (i : Nat) (e : Entry) : (setEntry i e s).formed = s.formed := rfl
@[simp] theorem setEntry_ctx0 (i : Nat) (e : Entry) : (setEntry i e s).ctx0 = s.ctx0 := rfl
@[simp] theorem setEntry_ctx1 (i : Nat) (e : Entry) : (setEntry i e s).ctx1 = s.ctx1 := rfl
@[simp] theorem setEntry_running (i : Nat) (e : Entry) : (setEntry i e s).running = s.running := rfl
@[simp] theorem setEntry_arrays (i : Nat) (e : Entry) : (setEntry i e s).arrays = s.arrays := rfl
@[simp] theorem setEntry_nArr (i : Nat) (e : Entry) : (setEntry i e s).nArr = s.nArr := rfl
@[simp] theorem setEntry_repairs (i : Nat) (e : Entry) : (setEntry i e s).repairs = s.repairs := rfl
@[simp] theorem setEntry_strobes (i : Nat) (e : Entry) : (setEntry i e s).strobes = s.strobes := rfl
@[simp] theorem setEntry_mirror (i : Nat) (e : Entry) : (setEntry i e s).mirror = s.mirror := rfl
@[simp] theorem setEntry_out (i : Nat) (e : Entry) : (setEntry i e s).out = s.out := rfl
@[simp] theorem setEntry_fresh (i : Nat) (e : Entry) : (setEntry i e s).fresh = s.fresh := rfl

@[simp] theorem setDir_grade (d : Nat) (e : DirEntry) : (setDir d e s).grade = s.grade := rfl
@[simp] theorem setDir_testMode (d : Nat) (e : DirEntry) : (setDir d e s).testMode = s.testMode := rfl
@[simp] theorem setDir_reg (d : Nat) (e : DirEntry) : (setDir d e s).reg = s.reg := rfl
@[simp] theorem setDir_stores (d : Nat) (e : DirEntry) : (setDir d e s).stores = s.stores := rfl
@[simp] theorem setDir_epochs (d : Nat) (e : DirEntry) : (setDir d e s).epochs = s.epochs := rfl
@[simp] theorem setDir_cfg (d : Nat) (e : DirEntry) : (setDir d e s).cfg = s.cfg := rfl
@[simp] theorem setDir_pwr (d : Nat) (e : DirEntry) : (setDir d e s).pwr = s.pwr := rfl
@[simp] theorem setDir_mem (d : Nat) (e : DirEntry) : (setDir d e s).mem = s.mem := rfl
@[simp] theorem setDir_rdg (d : Nat) (e : DirEntry) : (setDir d e s).rdg = s.rdg := rfl
@[simp] theorem setDir_step (d : Nat) (e : DirEntry) : (setDir d e s).step = s.step := rfl
@[simp] theorem setDir_fault (d : Nat) (e : DirEntry) : (setDir d e s).fault = s.fault := rfl
@[simp] theorem setDir_faultCode (d : Nat) (e : DirEntry) : (setDir d e s).faultCode = s.faultCode := rfl
@[simp] theorem setDir_faultAddr (d : Nat) (e : DirEntry) : (setDir d e s).faultAddr = s.faultAddr := rfl
@[simp] theorem setDir_sramInit (d : Nat) (e : DirEntry) : (setDir d e s).sramInit = s.sramInit := rfl
@[simp] theorem setDir_resetting (d : Nat) (e : DirEntry) : (setDir d e s).resetting = s.resetting := rfl
@[simp] theorem setDir_launched (d : Nat) (e : DirEntry) : (setDir d e s).launched = s.launched := rfl
@[simp] theorem setDir_count (d : Nat) (e : DirEntry) : (setDir d e s).count = s.count := rfl
@[simp] theorem setDir_mcTick (d : Nat) (e : DirEntry) : (setDir d e s).mcTick = s.mcTick := rfl
@[simp] theorem setDir_goodRun (d : Nat) (e : DirEntry) : (setDir d e s).goodRun = s.goodRun := rfl
@[simp] theorem setDir_launchQ (d : Nat) (e : DirEntry) : (setDir d e s).launchQ = s.launchQ := rfl
@[simp] theorem setDir_host (d : Nat) (e : DirEntry) : (setDir d e s).host = s.host := rfl
@[simp] theorem setDir_dirHost (d : Nat) (e : DirEntry) : (setDir d e s).dirHost = s.dirHost := rfl
@[simp] theorem setDir_entries (d : Nat) (e : DirEntry) : (setDir d e s).entries = s.entries := rfl
@[simp] theorem setDir_used (d : Nat) (e : DirEntry) : (setDir d e s).used = s.used := rfl
@[simp] theorem setDir_counters (d : Nat) (e : DirEntry) : (setDir d e s).counters = s.counters := rfl
@[simp] theorem setDir_batchSeq (d : Nat) (e : DirEntry) : (setDir d e s).batchSeq = s.batchSeq := rfl
@[simp] theorem setDir_leftPages (d : Nat) (e : DirEntry) : (setDir d e s).leftPages = s.leftPages := rfl
@[simp] theorem setDir_tenants (d : Nat) (e : DirEntry) : (setDir d e s).tenants = s.tenants := rfl
@[simp] theorem setDir_lastRefill (d : Nat) (e : DirEntry) : (setDir d e s).lastRefill = s.lastRefill := rfl
@[simp] theorem setDir_forming (d : Nat) (e : DirEntry) : (setDir d e s).forming = s.forming := rfl
@[simp] theorem setDir_formed (d : Nat) (e : DirEntry) : (setDir d e s).formed = s.formed := rfl
@[simp] theorem setDir_ctx0 (d : Nat) (e : DirEntry) : (setDir d e s).ctx0 = s.ctx0 := rfl
@[simp] theorem setDir_ctx1 (d : Nat) (e : DirEntry) : (setDir d e s).ctx1 = s.ctx1 := rfl
@[simp] theorem setDir_running (d : Nat) (e : DirEntry) : (setDir d e s).running = s.running := rfl
@[simp] theorem setDir_arrays (d : Nat) (e : DirEntry) : (setDir d e s).arrays = s.arrays := rfl
@[simp] theorem setDir_nArr (d : Nat) (e : DirEntry) : (setDir d e s).nArr = s.nArr := rfl
@[simp] theorem setDir_repairs (d : Nat) (e : DirEntry) : (setDir d e s).repairs = s.repairs := rfl
@[simp] theorem setDir_strobes (d : Nat) (e : DirEntry) : (setDir d e s).strobes = s.strobes := rfl
@[simp] theorem setDir_mirror (d : Nat) (e : DirEntry) : (setDir d e s).mirror = s.mirror := rfl
@[simp] theorem setDir_out (d : Nat) (e : DirEntry) : (setDir d e s).out = s.out := rfl
@[simp] theorem setDir_fresh (d : Nat) (e : DirEntry) : (setDir d e s).fresh = s.fresh := rfl

@[simp] theorem setTenant_grade (n : Nat) (t : Tenant) : (setTenant n t s).grade = s.grade := rfl
@[simp] theorem setTenant_testMode (n : Nat) (t : Tenant) : (setTenant n t s).testMode = s.testMode := rfl
@[simp] theorem setTenant_reg (n : Nat) (t : Tenant) : (setTenant n t s).reg = s.reg := rfl
@[simp] theorem setTenant_stores (n : Nat) (t : Tenant) : (setTenant n t s).stores = s.stores := rfl
@[simp] theorem setTenant_epochs (n : Nat) (t : Tenant) : (setTenant n t s).epochs = s.epochs := rfl
@[simp] theorem setTenant_cfg (n : Nat) (t : Tenant) : (setTenant n t s).cfg = s.cfg := rfl
@[simp] theorem setTenant_pwr (n : Nat) (t : Tenant) : (setTenant n t s).pwr = s.pwr := rfl
@[simp] theorem setTenant_mem (n : Nat) (t : Tenant) : (setTenant n t s).mem = s.mem := rfl
@[simp] theorem setTenant_rdg (n : Nat) (t : Tenant) : (setTenant n t s).rdg = s.rdg := rfl
@[simp] theorem setTenant_step (n : Nat) (t : Tenant) : (setTenant n t s).step = s.step := rfl
@[simp] theorem setTenant_fault (n : Nat) (t : Tenant) : (setTenant n t s).fault = s.fault := rfl
@[simp] theorem setTenant_faultCode (n : Nat) (t : Tenant) : (setTenant n t s).faultCode = s.faultCode := rfl
@[simp] theorem setTenant_faultAddr (n : Nat) (t : Tenant) : (setTenant n t s).faultAddr = s.faultAddr := rfl
@[simp] theorem setTenant_sramInit (n : Nat) (t : Tenant) : (setTenant n t s).sramInit = s.sramInit := rfl
@[simp] theorem setTenant_resetting (n : Nat) (t : Tenant) : (setTenant n t s).resetting = s.resetting := rfl
@[simp] theorem setTenant_launched (n : Nat) (t : Tenant) : (setTenant n t s).launched = s.launched := rfl
@[simp] theorem setTenant_count (n : Nat) (t : Tenant) : (setTenant n t s).count = s.count := rfl
@[simp] theorem setTenant_mcTick (n : Nat) (t : Tenant) : (setTenant n t s).mcTick = s.mcTick := rfl
@[simp] theorem setTenant_goodRun (n : Nat) (t : Tenant) : (setTenant n t s).goodRun = s.goodRun := rfl
@[simp] theorem setTenant_launchQ (n : Nat) (t : Tenant) : (setTenant n t s).launchQ = s.launchQ := rfl
@[simp] theorem setTenant_host (n : Nat) (t : Tenant) : (setTenant n t s).host = s.host := rfl
@[simp] theorem setTenant_dirHost (n : Nat) (t : Tenant) : (setTenant n t s).dirHost = s.dirHost := rfl
@[simp] theorem setTenant_entries (n : Nat) (t : Tenant) : (setTenant n t s).entries = s.entries := rfl
@[simp] theorem setTenant_dir (n : Nat) (t : Tenant) : (setTenant n t s).dir = s.dir := rfl
@[simp] theorem setTenant_used (n : Nat) (t : Tenant) : (setTenant n t s).used = s.used := rfl
@[simp] theorem setTenant_counters (n : Nat) (t : Tenant) : (setTenant n t s).counters = s.counters := rfl
@[simp] theorem setTenant_batchSeq (n : Nat) (t : Tenant) : (setTenant n t s).batchSeq = s.batchSeq := rfl
@[simp] theorem setTenant_leftPages (n : Nat) (t : Tenant) : (setTenant n t s).leftPages = s.leftPages := rfl
@[simp] theorem setTenant_lastRefill (n : Nat) (t : Tenant) : (setTenant n t s).lastRefill = s.lastRefill := rfl
@[simp] theorem setTenant_forming (n : Nat) (t : Tenant) : (setTenant n t s).forming = s.forming := rfl
@[simp] theorem setTenant_formed (n : Nat) (t : Tenant) : (setTenant n t s).formed = s.formed := rfl
@[simp] theorem setTenant_ctx0 (n : Nat) (t : Tenant) : (setTenant n t s).ctx0 = s.ctx0 := rfl
@[simp] theorem setTenant_ctx1 (n : Nat) (t : Tenant) : (setTenant n t s).ctx1 = s.ctx1 := rfl
@[simp] theorem setTenant_running (n : Nat) (t : Tenant) : (setTenant n t s).running = s.running := rfl
@[simp] theorem setTenant_arrays (n : Nat) (t : Tenant) : (setTenant n t s).arrays = s.arrays := rfl
@[simp] theorem setTenant_nArr (n : Nat) (t : Tenant) : (setTenant n t s).nArr = s.nArr := rfl
@[simp] theorem setTenant_repairs (n : Nat) (t : Tenant) : (setTenant n t s).repairs = s.repairs := rfl
@[simp] theorem setTenant_strobes (n : Nat) (t : Tenant) : (setTenant n t s).strobes = s.strobes := rfl
@[simp] theorem setTenant_mirror (n : Nat) (t : Tenant) : (setTenant n t s).mirror = s.mirror := rfl
@[simp] theorem setTenant_out (n : Nat) (t : Tenant) : (setTenant n t s).out = s.out := rfl
@[simp] theorem setTenant_fresh (n : Nat) (t : Tenant) : (setTenant n t s).fresh = s.fresh := rfl

@[simp] theorem freePages_grade (ps : List Nat) : (freePages ps s).grade = s.grade := rfl
@[simp] theorem freePages_testMode (ps : List Nat) : (freePages ps s).testMode = s.testMode := rfl
@[simp] theorem freePages_reg (ps : List Nat) : (freePages ps s).reg = s.reg := rfl
@[simp] theorem freePages_stores (ps : List Nat) : (freePages ps s).stores = s.stores := rfl
@[simp] theorem freePages_epochs (ps : List Nat) : (freePages ps s).epochs = s.epochs := rfl
@[simp] theorem freePages_cfg (ps : List Nat) : (freePages ps s).cfg = s.cfg := rfl
@[simp] theorem freePages_pwr (ps : List Nat) : (freePages ps s).pwr = s.pwr := rfl
@[simp] theorem freePages_mem (ps : List Nat) : (freePages ps s).mem = s.mem := rfl
@[simp] theorem freePages_rdg (ps : List Nat) : (freePages ps s).rdg = s.rdg := rfl
@[simp] theorem freePages_step (ps : List Nat) : (freePages ps s).step = s.step := rfl
@[simp] theorem freePages_fault (ps : List Nat) : (freePages ps s).fault = s.fault := rfl
@[simp] theorem freePages_faultCode (ps : List Nat) : (freePages ps s).faultCode = s.faultCode := rfl
@[simp] theorem freePages_faultAddr (ps : List Nat) : (freePages ps s).faultAddr = s.faultAddr := rfl
@[simp] theorem freePages_sramInit (ps : List Nat) : (freePages ps s).sramInit = s.sramInit := rfl
@[simp] theorem freePages_resetting (ps : List Nat) : (freePages ps s).resetting = s.resetting := rfl
@[simp] theorem freePages_launched (ps : List Nat) : (freePages ps s).launched = s.launched := rfl
@[simp] theorem freePages_count (ps : List Nat) : (freePages ps s).count = s.count := rfl
@[simp] theorem freePages_mcTick (ps : List Nat) : (freePages ps s).mcTick = s.mcTick := rfl
@[simp] theorem freePages_goodRun (ps : List Nat) : (freePages ps s).goodRun = s.goodRun := rfl
@[simp] theorem freePages_launchQ (ps : List Nat) : (freePages ps s).launchQ = s.launchQ := rfl
@[simp] theorem freePages_host (ps : List Nat) : (freePages ps s).host = s.host := rfl
@[simp] theorem freePages_dirHost (ps : List Nat) : (freePages ps s).dirHost = s.dirHost := rfl
@[simp] theorem freePages_entries (ps : List Nat) : (freePages ps s).entries = s.entries := rfl
@[simp] theorem freePages_dir (ps : List Nat) : (freePages ps s).dir = s.dir := rfl
@[simp] theorem freePages_counters (ps : List Nat) : (freePages ps s).counters = s.counters := rfl
@[simp] theorem freePages_batchSeq (ps : List Nat) : (freePages ps s).batchSeq = s.batchSeq := rfl
@[simp] theorem freePages_leftPages (ps : List Nat) : (freePages ps s).leftPages = s.leftPages := rfl
@[simp] theorem freePages_tenants (ps : List Nat) : (freePages ps s).tenants = s.tenants := rfl
@[simp] theorem freePages_lastRefill (ps : List Nat) : (freePages ps s).lastRefill = s.lastRefill := rfl
@[simp] theorem freePages_forming (ps : List Nat) : (freePages ps s).forming = s.forming := rfl
@[simp] theorem freePages_formed (ps : List Nat) : (freePages ps s).formed = s.formed := rfl
@[simp] theorem freePages_ctx0 (ps : List Nat) : (freePages ps s).ctx0 = s.ctx0 := rfl
@[simp] theorem freePages_ctx1 (ps : List Nat) : (freePages ps s).ctx1 = s.ctx1 := rfl
@[simp] theorem freePages_running (ps : List Nat) : (freePages ps s).running = s.running := rfl
@[simp] theorem freePages_arrays (ps : List Nat) : (freePages ps s).arrays = s.arrays := rfl
@[simp] theorem freePages_nArr (ps : List Nat) : (freePages ps s).nArr = s.nArr := rfl
@[simp] theorem freePages_repairs (ps : List Nat) : (freePages ps s).repairs = s.repairs := rfl
@[simp] theorem freePages_strobes (ps : List Nat) : (freePages ps s).strobes = s.strobes := rfl
@[simp] theorem freePages_mirror (ps : List Nat) : (freePages ps s).mirror = s.mirror := rfl
@[simp] theorem freePages_out (ps : List Nat) : (freePages ps s).out = s.out := rfl
@[simp] theorem freePages_fresh (ps : List Nat) : (freePages ps s).fresh = s.fresh := rfl

@[simp] theorem emit_grade (o : PortOut) : (emit o s).grade = s.grade := rfl
@[simp] theorem emit_testMode (o : PortOut) : (emit o s).testMode = s.testMode := rfl
@[simp] theorem emit_reg (o : PortOut) : (emit o s).reg = s.reg := rfl
@[simp] theorem emit_stores (o : PortOut) : (emit o s).stores = s.stores := rfl
@[simp] theorem emit_epochs (o : PortOut) : (emit o s).epochs = s.epochs := rfl
@[simp] theorem emit_cfg (o : PortOut) : (emit o s).cfg = s.cfg := rfl
@[simp] theorem emit_pwr (o : PortOut) : (emit o s).pwr = s.pwr := rfl
@[simp] theorem emit_mem (o : PortOut) : (emit o s).mem = s.mem := rfl
@[simp] theorem emit_rdg (o : PortOut) : (emit o s).rdg = s.rdg := rfl
@[simp] theorem emit_step (o : PortOut) : (emit o s).step = s.step := rfl
@[simp] theorem emit_fault (o : PortOut) : (emit o s).fault = s.fault := rfl
@[simp] theorem emit_faultCode (o : PortOut) : (emit o s).faultCode = s.faultCode := rfl
@[simp] theorem emit_faultAddr (o : PortOut) : (emit o s).faultAddr = s.faultAddr := rfl
@[simp] theorem emit_sramInit (o : PortOut) : (emit o s).sramInit = s.sramInit := rfl
@[simp] theorem emit_resetting (o : PortOut) : (emit o s).resetting = s.resetting := rfl
@[simp] theorem emit_launched (o : PortOut) : (emit o s).launched = s.launched := rfl
@[simp] theorem emit_count (o : PortOut) : (emit o s).count = s.count := rfl
@[simp] theorem emit_mcTick (o : PortOut) : (emit o s).mcTick = s.mcTick := rfl
@[simp] theorem emit_goodRun (o : PortOut) : (emit o s).goodRun = s.goodRun := rfl
@[simp] theorem emit_launchQ (o : PortOut) : (emit o s).launchQ = s.launchQ := rfl
@[simp] theorem emit_host (o : PortOut) : (emit o s).host = s.host := rfl
@[simp] theorem emit_dirHost (o : PortOut) : (emit o s).dirHost = s.dirHost := rfl
@[simp] theorem emit_entries (o : PortOut) : (emit o s).entries = s.entries := rfl
@[simp] theorem emit_dir (o : PortOut) : (emit o s).dir = s.dir := rfl
@[simp] theorem emit_used (o : PortOut) : (emit o s).used = s.used := rfl
@[simp] theorem emit_counters (o : PortOut) : (emit o s).counters = s.counters := rfl
@[simp] theorem emit_batchSeq (o : PortOut) : (emit o s).batchSeq = s.batchSeq := rfl
@[simp] theorem emit_leftPages (o : PortOut) : (emit o s).leftPages = s.leftPages := rfl
@[simp] theorem emit_tenants (o : PortOut) : (emit o s).tenants = s.tenants := rfl
@[simp] theorem emit_lastRefill (o : PortOut) : (emit o s).lastRefill = s.lastRefill := rfl
@[simp] theorem emit_forming (o : PortOut) : (emit o s).forming = s.forming := rfl
@[simp] theorem emit_formed (o : PortOut) : (emit o s).formed = s.formed := rfl
@[simp] theorem emit_ctx0 (o : PortOut) : (emit o s).ctx0 = s.ctx0 := rfl
@[simp] theorem emit_ctx1 (o : PortOut) : (emit o s).ctx1 = s.ctx1 := rfl
@[simp] theorem emit_running (o : PortOut) : (emit o s).running = s.running := rfl
@[simp] theorem emit_arrays (o : PortOut) : (emit o s).arrays = s.arrays := rfl
@[simp] theorem emit_nArr (o : PortOut) : (emit o s).nArr = s.nArr := rfl
@[simp] theorem emit_repairs (o : PortOut) : (emit o s).repairs = s.repairs := rfl
@[simp] theorem emit_strobes (o : PortOut) : (emit o s).strobes = s.strobes := rfl
@[simp] theorem emit_mirror (o : PortOut) : (emit o s).mirror = s.mirror := rfl
@[simp] theorem emit_fresh (o : PortOut) : (emit o s).fresh = s.fresh := rfl

@[simp] theorem strobe_grade (e : Strobe) : (strobe e s).grade = s.grade := by
  unfold strobe; split <;> rfl
@[simp] theorem strobe_testMode (e : Strobe) : (strobe e s).testMode = s.testMode := by
  unfold strobe; split <;> rfl
@[simp] theorem strobe_reg (e : Strobe) : (strobe e s).reg = s.reg := by
  unfold strobe; split <;> rfl
@[simp] theorem strobe_stores (e : Strobe) : (strobe e s).stores = s.stores := by
  unfold strobe; split <;> rfl
@[simp] theorem strobe_epochs (e : Strobe) : (strobe e s).epochs = s.epochs := by
  unfold strobe; split <;> rfl
@[simp] theorem strobe_cfg (e : Strobe) : (strobe e s).cfg = s.cfg := by
  unfold strobe; split <;> rfl
@[simp] theorem strobe_pwr (e : Strobe) : (strobe e s).pwr = s.pwr := by
  unfold strobe; split <;> rfl
@[simp] theorem strobe_mem (e : Strobe) : (strobe e s).mem = s.mem := by
  unfold strobe; split <;> rfl
@[simp] theorem strobe_rdg (e : Strobe) : (strobe e s).rdg = s.rdg := by
  unfold strobe; split <;> rfl
@[simp] theorem strobe_step (e : Strobe) : (strobe e s).step = s.step := by
  unfold strobe; split <;> rfl
@[simp] theorem strobe_fault (e : Strobe) : (strobe e s).fault = s.fault := by
  unfold strobe; split <;> rfl
@[simp] theorem strobe_faultCode (e : Strobe) : (strobe e s).faultCode = s.faultCode := by
  unfold strobe; split <;> rfl
@[simp] theorem strobe_faultAddr (e : Strobe) : (strobe e s).faultAddr = s.faultAddr := by
  unfold strobe; split <;> rfl
@[simp] theorem strobe_sramInit (e : Strobe) : (strobe e s).sramInit = s.sramInit := by
  unfold strobe; split <;> rfl
@[simp] theorem strobe_resetting (e : Strobe) : (strobe e s).resetting = s.resetting := by
  unfold strobe; split <;> rfl
@[simp] theorem strobe_launched (e : Strobe) : (strobe e s).launched = s.launched := by
  unfold strobe; split <;> rfl
@[simp] theorem strobe_count (e : Strobe) : (strobe e s).count = s.count := by
  unfold strobe; split <;> rfl
@[simp] theorem strobe_mcTick (e : Strobe) : (strobe e s).mcTick = s.mcTick := by
  unfold strobe; split <;> rfl
@[simp] theorem strobe_goodRun (e : Strobe) : (strobe e s).goodRun = s.goodRun := by
  unfold strobe; split <;> rfl
@[simp] theorem strobe_launchQ (e : Strobe) : (strobe e s).launchQ = s.launchQ := by
  unfold strobe; split <;> rfl
@[simp] theorem strobe_host (e : Strobe) : (strobe e s).host = s.host := by
  unfold strobe; split <;> rfl
@[simp] theorem strobe_dirHost (e : Strobe) : (strobe e s).dirHost = s.dirHost := by
  unfold strobe; split <;> rfl
@[simp] theorem strobe_entries (e : Strobe) : (strobe e s).entries = s.entries := by
  unfold strobe; split <;> rfl
@[simp] theorem strobe_dir (e : Strobe) : (strobe e s).dir = s.dir := by
  unfold strobe; split <;> rfl
@[simp] theorem strobe_used (e : Strobe) : (strobe e s).used = s.used := by
  unfold strobe; split <;> rfl
@[simp] theorem strobe_counters (e : Strobe) : (strobe e s).counters = s.counters := by
  unfold strobe; split <;> rfl
@[simp] theorem strobe_batchSeq (e : Strobe) : (strobe e s).batchSeq = s.batchSeq := by
  unfold strobe; split <;> rfl
@[simp] theorem strobe_leftPages (e : Strobe) : (strobe e s).leftPages = s.leftPages := by
  unfold strobe; split <;> rfl
@[simp] theorem strobe_tenants (e : Strobe) : (strobe e s).tenants = s.tenants := by
  unfold strobe; split <;> rfl
@[simp] theorem strobe_lastRefill (e : Strobe) : (strobe e s).lastRefill = s.lastRefill := by
  unfold strobe; split <;> rfl
@[simp] theorem strobe_forming (e : Strobe) : (strobe e s).forming = s.forming := by
  unfold strobe; split <;> rfl
@[simp] theorem strobe_formed (e : Strobe) : (strobe e s).formed = s.formed := by
  unfold strobe; split <;> rfl
@[simp] theorem strobe_ctx0 (e : Strobe) : (strobe e s).ctx0 = s.ctx0 := by
  unfold strobe; split <;> rfl
@[simp] theorem strobe_ctx1 (e : Strobe) : (strobe e s).ctx1 = s.ctx1 := by
  unfold strobe; split <;> rfl
@[simp] theorem strobe_running (e : Strobe) : (strobe e s).running = s.running := by
  unfold strobe; split <;> rfl
@[simp] theorem strobe_arrays (e : Strobe) : (strobe e s).arrays = s.arrays := by
  unfold strobe; split <;> rfl
@[simp] theorem strobe_nArr (e : Strobe) : (strobe e s).nArr = s.nArr := by
  unfold strobe; split <;> rfl
@[simp] theorem strobe_repairs (e : Strobe) : (strobe e s).repairs = s.repairs := by
  unfold strobe; split <;> rfl
@[simp] theorem strobe_mirror (e : Strobe) : (strobe e s).mirror = s.mirror := by
  unfold strobe; split <;> rfl
@[simp] theorem strobe_out (e : Strobe) : (strobe e s).out = s.out := by
  unfold strobe; split <;> rfl
@[simp] theorem strobe_fresh (e : Strobe) : (strobe e s).fresh = s.fresh := by
  unfold strobe; split <;> rfl

@[simp] theorem setCtx_grade (i : Nat) (c : Option Ctx) : (setCtx i c s).grade = s.grade := by
  unfold setCtx; split <;> rfl
@[simp] theorem setCtx_testMode (i : Nat) (c : Option Ctx) : (setCtx i c s).testMode = s.testMode := by
  unfold setCtx; split <;> rfl
@[simp] theorem setCtx_reg (i : Nat) (c : Option Ctx) : (setCtx i c s).reg = s.reg := by
  unfold setCtx; split <;> rfl
@[simp] theorem setCtx_stores (i : Nat) (c : Option Ctx) : (setCtx i c s).stores = s.stores := by
  unfold setCtx; split <;> rfl
@[simp] theorem setCtx_epochs (i : Nat) (c : Option Ctx) : (setCtx i c s).epochs = s.epochs := by
  unfold setCtx; split <;> rfl
@[simp] theorem setCtx_cfg (i : Nat) (c : Option Ctx) : (setCtx i c s).cfg = s.cfg := by
  unfold setCtx; split <;> rfl
@[simp] theorem setCtx_pwr (i : Nat) (c : Option Ctx) : (setCtx i c s).pwr = s.pwr := by
  unfold setCtx; split <;> rfl
@[simp] theorem setCtx_mem (i : Nat) (c : Option Ctx) : (setCtx i c s).mem = s.mem := by
  unfold setCtx; split <;> rfl
@[simp] theorem setCtx_rdg (i : Nat) (c : Option Ctx) : (setCtx i c s).rdg = s.rdg := by
  unfold setCtx; split <;> rfl
@[simp] theorem setCtx_step (i : Nat) (c : Option Ctx) : (setCtx i c s).step = s.step := by
  unfold setCtx; split <;> rfl
@[simp] theorem setCtx_fault (i : Nat) (c : Option Ctx) : (setCtx i c s).fault = s.fault := by
  unfold setCtx; split <;> rfl
@[simp] theorem setCtx_faultCode (i : Nat) (c : Option Ctx) : (setCtx i c s).faultCode = s.faultCode := by
  unfold setCtx; split <;> rfl
@[simp] theorem setCtx_faultAddr (i : Nat) (c : Option Ctx) : (setCtx i c s).faultAddr = s.faultAddr := by
  unfold setCtx; split <;> rfl
@[simp] theorem setCtx_sramInit (i : Nat) (c : Option Ctx) : (setCtx i c s).sramInit = s.sramInit := by
  unfold setCtx; split <;> rfl
@[simp] theorem setCtx_resetting (i : Nat) (c : Option Ctx) : (setCtx i c s).resetting = s.resetting := by
  unfold setCtx; split <;> rfl
@[simp] theorem setCtx_launched (i : Nat) (c : Option Ctx) : (setCtx i c s).launched = s.launched := by
  unfold setCtx; split <;> rfl
@[simp] theorem setCtx_count (i : Nat) (c : Option Ctx) : (setCtx i c s).count = s.count := by
  unfold setCtx; split <;> rfl
@[simp] theorem setCtx_mcTick (i : Nat) (c : Option Ctx) : (setCtx i c s).mcTick = s.mcTick := by
  unfold setCtx; split <;> rfl
@[simp] theorem setCtx_goodRun (i : Nat) (c : Option Ctx) : (setCtx i c s).goodRun = s.goodRun := by
  unfold setCtx; split <;> rfl
@[simp] theorem setCtx_launchQ (i : Nat) (c : Option Ctx) : (setCtx i c s).launchQ = s.launchQ := by
  unfold setCtx; split <;> rfl
@[simp] theorem setCtx_host (i : Nat) (c : Option Ctx) : (setCtx i c s).host = s.host := by
  unfold setCtx; split <;> rfl
@[simp] theorem setCtx_dirHost (i : Nat) (c : Option Ctx) : (setCtx i c s).dirHost = s.dirHost := by
  unfold setCtx; split <;> rfl
@[simp] theorem setCtx_entries (i : Nat) (c : Option Ctx) : (setCtx i c s).entries = s.entries := by
  unfold setCtx; split <;> rfl
@[simp] theorem setCtx_dir (i : Nat) (c : Option Ctx) : (setCtx i c s).dir = s.dir := by
  unfold setCtx; split <;> rfl
@[simp] theorem setCtx_used (i : Nat) (c : Option Ctx) : (setCtx i c s).used = s.used := by
  unfold setCtx; split <;> rfl
@[simp] theorem setCtx_counters (i : Nat) (c : Option Ctx) : (setCtx i c s).counters = s.counters := by
  unfold setCtx; split <;> rfl
@[simp] theorem setCtx_batchSeq (i : Nat) (c : Option Ctx) : (setCtx i c s).batchSeq = s.batchSeq := by
  unfold setCtx; split <;> rfl
@[simp] theorem setCtx_leftPages (i : Nat) (c : Option Ctx) : (setCtx i c s).leftPages = s.leftPages := by
  unfold setCtx; split <;> rfl
@[simp] theorem setCtx_tenants (i : Nat) (c : Option Ctx) : (setCtx i c s).tenants = s.tenants := by
  unfold setCtx; split <;> rfl
@[simp] theorem setCtx_lastRefill (i : Nat) (c : Option Ctx) : (setCtx i c s).lastRefill = s.lastRefill := by
  unfold setCtx; split <;> rfl
@[simp] theorem setCtx_forming (i : Nat) (c : Option Ctx) : (setCtx i c s).forming = s.forming := by
  unfold setCtx; split <;> rfl
@[simp] theorem setCtx_formed (i : Nat) (c : Option Ctx) : (setCtx i c s).formed = s.formed := by
  unfold setCtx; split <;> rfl
@[simp] theorem setCtx_running (i : Nat) (c : Option Ctx) : (setCtx i c s).running = s.running := by
  unfold setCtx; split <;> rfl
@[simp] theorem setCtx_arrays (i : Nat) (c : Option Ctx) : (setCtx i c s).arrays = s.arrays := by
  unfold setCtx; split <;> rfl
@[simp] theorem setCtx_nArr (i : Nat) (c : Option Ctx) : (setCtx i c s).nArr = s.nArr := by
  unfold setCtx; split <;> rfl
@[simp] theorem setCtx_repairs (i : Nat) (c : Option Ctx) : (setCtx i c s).repairs = s.repairs := by
  unfold setCtx; split <;> rfl
@[simp] theorem setCtx_strobes (i : Nat) (c : Option Ctx) : (setCtx i c s).strobes = s.strobes := by
  unfold setCtx; split <;> rfl
@[simp] theorem setCtx_mirror (i : Nat) (c : Option Ctx) : (setCtx i c s).mirror = s.mirror := by
  unfold setCtx; split <;> rfl
@[simp] theorem setCtx_out (i : Nat) (c : Option Ctx) : (setCtx i c s).out = s.out := by
  unfold setCtx; split <;> rfl
@[simp] theorem setCtx_fresh (i : Nat) (c : Option Ctx) : (setCtx i c s).fresh = s.fresh := by
  unfold setCtx; split <;> rfl

@[simp] theorem setPwr_grade (f : PwrSide → PwrSide) : (setPwr f s).grade = s.grade := rfl
@[simp] theorem setPwr_testMode (f : PwrSide → PwrSide) : (setPwr f s).testMode = s.testMode := rfl
@[simp] theorem setPwr_reg (f : PwrSide → PwrSide) : (setPwr f s).reg = s.reg := rfl
@[simp] theorem setPwr_stores (f : PwrSide → PwrSide) : (setPwr f s).stores = s.stores := rfl
@[simp] theorem setPwr_epochs (f : PwrSide → PwrSide) : (setPwr f s).epochs = s.epochs := rfl
@[simp] theorem setPwr_cfg (f : PwrSide → PwrSide) : (setPwr f s).cfg = s.cfg := rfl
@[simp] theorem setPwr_mem (f : PwrSide → PwrSide) : (setPwr f s).mem = s.mem := rfl
@[simp] theorem setPwr_rdg (f : PwrSide → PwrSide) : (setPwr f s).rdg = s.rdg := rfl
@[simp] theorem setPwr_step (f : PwrSide → PwrSide) : (setPwr f s).step = s.step := rfl
@[simp] theorem setPwr_fault (f : PwrSide → PwrSide) : (setPwr f s).fault = s.fault := rfl
@[simp] theorem setPwr_faultCode (f : PwrSide → PwrSide) : (setPwr f s).faultCode = s.faultCode := rfl
@[simp] theorem setPwr_faultAddr (f : PwrSide → PwrSide) : (setPwr f s).faultAddr = s.faultAddr := rfl
@[simp] theorem setPwr_sramInit (f : PwrSide → PwrSide) : (setPwr f s).sramInit = s.sramInit := rfl
@[simp] theorem setPwr_resetting (f : PwrSide → PwrSide) : (setPwr f s).resetting = s.resetting := rfl
@[simp] theorem setPwr_launched (f : PwrSide → PwrSide) : (setPwr f s).launched = s.launched := rfl
@[simp] theorem setPwr_count (f : PwrSide → PwrSide) : (setPwr f s).count = s.count := rfl
@[simp] theorem setPwr_mcTick (f : PwrSide → PwrSide) : (setPwr f s).mcTick = s.mcTick := rfl
@[simp] theorem setPwr_goodRun (f : PwrSide → PwrSide) : (setPwr f s).goodRun = s.goodRun := rfl
@[simp] theorem setPwr_launchQ (f : PwrSide → PwrSide) : (setPwr f s).launchQ = s.launchQ := rfl
@[simp] theorem setPwr_host (f : PwrSide → PwrSide) : (setPwr f s).host = s.host := rfl
@[simp] theorem setPwr_dirHost (f : PwrSide → PwrSide) : (setPwr f s).dirHost = s.dirHost := rfl
@[simp] theorem setPwr_entries (f : PwrSide → PwrSide) : (setPwr f s).entries = s.entries := rfl
@[simp] theorem setPwr_dir (f : PwrSide → PwrSide) : (setPwr f s).dir = s.dir := rfl
@[simp] theorem setPwr_used (f : PwrSide → PwrSide) : (setPwr f s).used = s.used := rfl
@[simp] theorem setPwr_counters (f : PwrSide → PwrSide) : (setPwr f s).counters = s.counters := rfl
@[simp] theorem setPwr_batchSeq (f : PwrSide → PwrSide) : (setPwr f s).batchSeq = s.batchSeq := rfl
@[simp] theorem setPwr_leftPages (f : PwrSide → PwrSide) : (setPwr f s).leftPages = s.leftPages := rfl
@[simp] theorem setPwr_tenants (f : PwrSide → PwrSide) : (setPwr f s).tenants = s.tenants := rfl
@[simp] theorem setPwr_lastRefill (f : PwrSide → PwrSide) : (setPwr f s).lastRefill = s.lastRefill := rfl
@[simp] theorem setPwr_forming (f : PwrSide → PwrSide) : (setPwr f s).forming = s.forming := rfl
@[simp] theorem setPwr_formed (f : PwrSide → PwrSide) : (setPwr f s).formed = s.formed := rfl
@[simp] theorem setPwr_ctx0 (f : PwrSide → PwrSide) : (setPwr f s).ctx0 = s.ctx0 := rfl
@[simp] theorem setPwr_ctx1 (f : PwrSide → PwrSide) : (setPwr f s).ctx1 = s.ctx1 := rfl
@[simp] theorem setPwr_running (f : PwrSide → PwrSide) : (setPwr f s).running = s.running := rfl
@[simp] theorem setPwr_arrays (f : PwrSide → PwrSide) : (setPwr f s).arrays = s.arrays := rfl
@[simp] theorem setPwr_nArr (f : PwrSide → PwrSide) : (setPwr f s).nArr = s.nArr := rfl
@[simp] theorem setPwr_repairs (f : PwrSide → PwrSide) : (setPwr f s).repairs = s.repairs := rfl
@[simp] theorem setPwr_strobes (f : PwrSide → PwrSide) : (setPwr f s).strobes = s.strobes := rfl
@[simp] theorem setPwr_mirror (f : PwrSide → PwrSide) : (setPwr f s).mirror = s.mirror := rfl
@[simp] theorem setPwr_out (f : PwrSide → PwrSide) : (setPwr f s).out = s.out := rfl
@[simp] theorem setPwr_fresh (f : PwrSide → PwrSide) : (setPwr f s).fresh = s.fresh := rfl

@[simp] theorem setStores_grade (f : Stores → Stores) : (setStores f s).grade = s.grade := rfl
@[simp] theorem setStores_testMode (f : Stores → Stores) : (setStores f s).testMode = s.testMode := rfl
@[simp] theorem setStores_reg (f : Stores → Stores) : (setStores f s).reg = s.reg := rfl
@[simp] theorem setStores_epochs (f : Stores → Stores) : (setStores f s).epochs = s.epochs := rfl
@[simp] theorem setStores_cfg (f : Stores → Stores) : (setStores f s).cfg = s.cfg := rfl
@[simp] theorem setStores_pwr (f : Stores → Stores) : (setStores f s).pwr = s.pwr := rfl
@[simp] theorem setStores_mem (f : Stores → Stores) : (setStores f s).mem = s.mem := rfl
@[simp] theorem setStores_rdg (f : Stores → Stores) : (setStores f s).rdg = s.rdg := rfl
@[simp] theorem setStores_step (f : Stores → Stores) : (setStores f s).step = s.step := rfl
@[simp] theorem setStores_fault (f : Stores → Stores) : (setStores f s).fault = s.fault := rfl
@[simp] theorem setStores_faultCode (f : Stores → Stores) : (setStores f s).faultCode = s.faultCode := rfl
@[simp] theorem setStores_faultAddr (f : Stores → Stores) : (setStores f s).faultAddr = s.faultAddr := rfl
@[simp] theorem setStores_sramInit (f : Stores → Stores) : (setStores f s).sramInit = s.sramInit := rfl
@[simp] theorem setStores_resetting (f : Stores → Stores) : (setStores f s).resetting = s.resetting := rfl
@[simp] theorem setStores_launched (f : Stores → Stores) : (setStores f s).launched = s.launched := rfl
@[simp] theorem setStores_count (f : Stores → Stores) : (setStores f s).count = s.count := rfl
@[simp] theorem setStores_mcTick (f : Stores → Stores) : (setStores f s).mcTick = s.mcTick := rfl
@[simp] theorem setStores_goodRun (f : Stores → Stores) : (setStores f s).goodRun = s.goodRun := rfl
@[simp] theorem setStores_launchQ (f : Stores → Stores) : (setStores f s).launchQ = s.launchQ := rfl
@[simp] theorem setStores_host (f : Stores → Stores) : (setStores f s).host = s.host := rfl
@[simp] theorem setStores_dirHost (f : Stores → Stores) : (setStores f s).dirHost = s.dirHost := rfl
@[simp] theorem setStores_entries (f : Stores → Stores) : (setStores f s).entries = s.entries := rfl
@[simp] theorem setStores_dir (f : Stores → Stores) : (setStores f s).dir = s.dir := rfl
@[simp] theorem setStores_used (f : Stores → Stores) : (setStores f s).used = s.used := rfl
@[simp] theorem setStores_counters (f : Stores → Stores) : (setStores f s).counters = s.counters := rfl
@[simp] theorem setStores_batchSeq (f : Stores → Stores) : (setStores f s).batchSeq = s.batchSeq := rfl
@[simp] theorem setStores_leftPages (f : Stores → Stores) : (setStores f s).leftPages = s.leftPages := rfl
@[simp] theorem setStores_tenants (f : Stores → Stores) : (setStores f s).tenants = s.tenants := rfl
@[simp] theorem setStores_lastRefill (f : Stores → Stores) : (setStores f s).lastRefill = s.lastRefill := rfl
@[simp] theorem setStores_forming (f : Stores → Stores) : (setStores f s).forming = s.forming := rfl
@[simp] theorem setStores_formed (f : Stores → Stores) : (setStores f s).formed = s.formed := rfl
@[simp] theorem setStores_ctx0 (f : Stores → Stores) : (setStores f s).ctx0 = s.ctx0 := rfl
@[simp] theorem setStores_ctx1 (f : Stores → Stores) : (setStores f s).ctx1 = s.ctx1 := rfl
@[simp] theorem setStores_running (f : Stores → Stores) : (setStores f s).running = s.running := rfl
@[simp] theorem setStores_arrays (f : Stores → Stores) : (setStores f s).arrays = s.arrays := rfl
@[simp] theorem setStores_nArr (f : Stores → Stores) : (setStores f s).nArr = s.nArr := rfl
@[simp] theorem setStores_repairs (f : Stores → Stores) : (setStores f s).repairs = s.repairs := rfl
@[simp] theorem setStores_strobes (f : Stores → Stores) : (setStores f s).strobes = s.strobes := rfl
@[simp] theorem setStores_mirror (f : Stores → Stores) : (setStores f s).mirror = s.mirror := rfl
@[simp] theorem setStores_out (f : Stores → Stores) : (setStores f s).out = s.out := rfl
@[simp] theorem setStores_fresh (f : Stores → Stores) : (setStores f s).fresh = s.fresh := rfl

@[simp] theorem markStale_grade : (markStale s).grade = s.grade := rfl
@[simp] theorem markStale_testMode : (markStale s).testMode = s.testMode := rfl
@[simp] theorem markStale_stores : (markStale s).stores = s.stores := rfl
@[simp] theorem markStale_epochs : (markStale s).epochs = s.epochs := rfl
@[simp] theorem markStale_cfg : (markStale s).cfg = s.cfg := rfl
@[simp] theorem markStale_pwr : (markStale s).pwr = s.pwr := rfl
@[simp] theorem markStale_mem : (markStale s).mem = s.mem := rfl
@[simp] theorem markStale_rdg : (markStale s).rdg = s.rdg := rfl
@[simp] theorem markStale_step : (markStale s).step = s.step := rfl
@[simp] theorem markStale_fault : (markStale s).fault = s.fault := rfl
@[simp] theorem markStale_faultCode : (markStale s).faultCode = s.faultCode := rfl
@[simp] theorem markStale_faultAddr : (markStale s).faultAddr = s.faultAddr := rfl
@[simp] theorem markStale_sramInit : (markStale s).sramInit = s.sramInit := rfl
@[simp] theorem markStale_resetting : (markStale s).resetting = s.resetting := rfl
@[simp] theorem markStale_launched : (markStale s).launched = s.launched := rfl
@[simp] theorem markStale_count : (markStale s).count = s.count := rfl
@[simp] theorem markStale_mcTick : (markStale s).mcTick = s.mcTick := rfl
@[simp] theorem markStale_goodRun : (markStale s).goodRun = s.goodRun := rfl
@[simp] theorem markStale_launchQ : (markStale s).launchQ = s.launchQ := rfl
@[simp] theorem markStale_host : (markStale s).host = s.host := rfl
@[simp] theorem markStale_dirHost : (markStale s).dirHost = s.dirHost := rfl
@[simp] theorem markStale_entries : (markStale s).entries = s.entries := rfl
@[simp] theorem markStale_dir : (markStale s).dir = s.dir := rfl
@[simp] theorem markStale_used : (markStale s).used = s.used := rfl
@[simp] theorem markStale_counters : (markStale s).counters = s.counters := rfl
@[simp] theorem markStale_batchSeq : (markStale s).batchSeq = s.batchSeq := rfl
@[simp] theorem markStale_leftPages : (markStale s).leftPages = s.leftPages := rfl
@[simp] theorem markStale_tenants : (markStale s).tenants = s.tenants := rfl
@[simp] theorem markStale_lastRefill : (markStale s).lastRefill = s.lastRefill := rfl
@[simp] theorem markStale_forming : (markStale s).forming = s.forming := rfl
@[simp] theorem markStale_formed : (markStale s).formed = s.formed := rfl
@[simp] theorem markStale_ctx0 : (markStale s).ctx0 = s.ctx0 := rfl
@[simp] theorem markStale_ctx1 : (markStale s).ctx1 = s.ctx1 := rfl
@[simp] theorem markStale_running : (markStale s).running = s.running := rfl
@[simp] theorem markStale_arrays : (markStale s).arrays = s.arrays := rfl
@[simp] theorem markStale_nArr : (markStale s).nArr = s.nArr := rfl
@[simp] theorem markStale_repairs : (markStale s).repairs = s.repairs := rfl
@[simp] theorem markStale_strobes : (markStale s).strobes = s.strobes := rfl
@[simp] theorem markStale_mirror : (markStale s).mirror = s.mirror := rfl
@[simp] theorem markStale_out : (markStale s).out = s.out := rfl
@[simp] theorem markStale_fresh : (markStale s).fresh = s.fresh := rfl

@[simp] theorem setPwr_pwr (f : PwrSide → PwrSide) : (setPwr f s).pwr = f s.pwr := rfl
@[simp] theorem setStores_stores (f : Stores → Stores) : (setStores f s).stores = f s.stores := rfl
@[simp] theorem emit_out (o : PortOut) : (emit o s).out = s.out ++ [o] := rfl
@[simp] theorem irqRaise_reg_written (p : Page) (k : Nat) : (irqRaise p k s).reg.written = s.reg.written := rfl
@[simp] theorem irqRaise_reg_inForce (p : Page) (k : Nat) : (irqRaise p k s).reg.inForce = s.reg.inForce := rfl
@[simp] theorem irqRaise_reg_flags (p : Page) (k : Nat) : (irqRaise p k s).reg.flags = s.reg.flags := rfl
@[simp] theorem irqRaise_reg_counts (p : Page) (k : Nat) : (irqRaise p k s).reg.counts = s.reg.counts := rfl
@[simp] theorem irqRaise_reg_holds (p : Page) (k : Nat) : (irqRaise p k s).reg.holds = s.reg.holds := rfl
@[simp] theorem irqRaise_reg_resetPend (p : Page) (k : Nat) : (irqRaise p k s).reg.resetPend = s.reg.resetPend := rfl
@[simp] theorem irqRaise_reg_sinceReset (p : Page) (k : Nat) : (irqRaise p k s).reg.sinceReset = s.reg.sinceReset := rfl
@[simp] theorem irqRaise_reg_gates (p : Page) (k : Nat) : (irqRaise p k s).reg.gates = s.reg.gates := rfl
@[simp] theorem irqRaise_reg_gateAfter (p : Page) (k : Nat) : (irqRaise p k s).reg.gateAfter = s.reg.gateAfter := rfl
@[simp] theorem irqRaise_reg_errAddr (p : Page) (k : Nat) : (irqRaise p k s).reg.errAddr = s.reg.errAddr := rfl
@[simp] theorem irqRaise_reg_errCause (p : Page) (k : Nat) : (irqRaise p k s).reg.errCause = s.reg.errCause := rfl
@[simp] theorem irqRaise_reg_stale (p : Page) (k : Nat) : (irqRaise p k s).reg.stale = s.reg.stale := rfl

@[simp] theorem irqClear_reg_written (p : Page) (w : Word) : (irqClear p w s).reg.written = s.reg.written := rfl
@[simp] theorem irqClear_reg_inForce (p : Page) (w : Word) : (irqClear p w s).reg.inForce = s.reg.inForce := rfl
@[simp] theorem irqClear_reg_flags (p : Page) (w : Word) : (irqClear p w s).reg.flags = s.reg.flags := rfl
@[simp] theorem irqClear_reg_counts (p : Page) (w : Word) : (irqClear p w s).reg.counts = s.reg.counts := rfl
@[simp] theorem irqClear_reg_holds (p : Page) (w : Word) : (irqClear p w s).reg.holds = s.reg.holds := rfl
@[simp] theorem irqClear_reg_resetPend (p : Page) (w : Word) : (irqClear p w s).reg.resetPend = s.reg.resetPend := rfl
@[simp] theorem irqClear_reg_sinceReset (p : Page) (w : Word) : (irqClear p w s).reg.sinceReset = s.reg.sinceReset := rfl
@[simp] theorem irqClear_reg_gates (p : Page) (w : Word) : (irqClear p w s).reg.gates = s.reg.gates := rfl
@[simp] theorem irqClear_reg_gateAfter (p : Page) (w : Word) : (irqClear p w s).reg.gateAfter = s.reg.gateAfter := rfl
@[simp] theorem irqClear_reg_errAddr (p : Page) (w : Word) : (irqClear p w s).reg.errAddr = s.reg.errAddr := rfl
@[simp] theorem irqClear_reg_errCause (p : Page) (w : Word) : (irqClear p w s).reg.errCause = s.reg.errCause := rfl
@[simp] theorem irqClear_reg_stale (p : Page) (w : Word) : (irqClear p w s).reg.stale = s.reg.stale := rfl

@[simp] theorem flagRaise_reg_written (p : Page) (k : Nat) : (flagRaise p k s).reg.written = s.reg.written := rfl
@[simp] theorem flagRaise_reg_inForce (p : Page) (k : Nat) : (flagRaise p k s).reg.inForce = s.reg.inForce := rfl
@[simp] theorem flagRaise_reg_irq (p : Page) (k : Nat) : (flagRaise p k s).reg.irq = s.reg.irq := rfl
@[simp] theorem flagRaise_reg_counts (p : Page) (k : Nat) : (flagRaise p k s).reg.counts = s.reg.counts := rfl
@[simp] theorem flagRaise_reg_holds (p : Page) (k : Nat) : (flagRaise p k s).reg.holds = s.reg.holds := rfl
@[simp] theorem flagRaise_reg_resetPend (p : Page) (k : Nat) : (flagRaise p k s).reg.resetPend = s.reg.resetPend := rfl
@[simp] theorem flagRaise_reg_sinceReset (p : Page) (k : Nat) : (flagRaise p k s).reg.sinceReset = s.reg.sinceReset := rfl
@[simp] theorem flagRaise_reg_gates (p : Page) (k : Nat) : (flagRaise p k s).reg.gates = s.reg.gates := rfl
@[simp] theorem flagRaise_reg_gateAfter (p : Page) (k : Nat) : (flagRaise p k s).reg.gateAfter = s.reg.gateAfter := rfl
@[simp] theorem flagRaise_reg_errAddr (p : Page) (k : Nat) : (flagRaise p k s).reg.errAddr = s.reg.errAddr := rfl
@[simp] theorem flagRaise_reg_errCause (p : Page) (k : Nat) : (flagRaise p k s).reg.errCause = s.reg.errCause := rfl
@[simp] theorem flagRaise_reg_stale (p : Page) (k : Nat) : (flagRaise p k s).reg.stale = s.reg.stale := rfl

@[simp] theorem flagClear_reg_written (p : Page) (w : Word) : (flagClear p w s).reg.written = s.reg.written := rfl
@[simp] theorem flagClear_reg_inForce (p : Page) (w : Word) : (flagClear p w s).reg.inForce = s.reg.inForce := rfl
@[simp] theorem flagClear_reg_irq (p : Page) (w : Word) : (flagClear p w s).reg.irq = s.reg.irq := rfl
@[simp] theorem flagClear_reg_counts (p : Page) (w : Word) : (flagClear p w s).reg.counts = s.reg.counts := rfl
@[simp] theorem flagClear_reg_holds (p : Page) (w : Word) : (flagClear p w s).reg.holds = s.reg.holds := rfl
@[simp] theorem flagClear_reg_resetPend (p : Page) (w : Word) : (flagClear p w s).reg.resetPend = s.reg.resetPend := rfl
@[simp] theorem flagClear_reg_sinceReset (p : Page) (w : Word) : (flagClear p w s).reg.sinceReset = s.reg.sinceReset := rfl
@[simp] theorem flagClear_reg_gates (p : Page) (w : Word) : (flagClear p w s).reg.gates = s.reg.gates := rfl
@[simp] theorem flagClear_reg_gateAfter (p : Page) (w : Word) : (flagClear p w s).reg.gateAfter = s.reg.gateAfter := rfl
@[simp] theorem flagClear_reg_errAddr (p : Page) (w : Word) : (flagClear p w s).reg.errAddr = s.reg.errAddr := rfl
@[simp] theorem flagClear_reg_errCause (p : Page) (w : Word) : (flagClear p w s).reg.errCause = s.reg.errCause := rfl
@[simp] theorem flagClear_reg_stale (p : Page) (w : Word) : (flagClear p w s).reg.stale = s.reg.stale := rfl

@[simp] theorem countUp_reg_written (a n : Nat) : (countUp a n s).reg.written = s.reg.written := rfl
@[simp] theorem countUp_reg_inForce (a n : Nat) : (countUp a n s).reg.inForce = s.reg.inForce := rfl
@[simp] theorem countUp_reg_flags (a n : Nat) : (countUp a n s).reg.flags = s.reg.flags := rfl
@[simp] theorem countUp_reg_irq (a n : Nat) : (countUp a n s).reg.irq = s.reg.irq := rfl
@[simp] theorem countUp_reg_holds (a n : Nat) : (countUp a n s).reg.holds = s.reg.holds := rfl
@[simp] theorem countUp_reg_resetPend (a n : Nat) : (countUp a n s).reg.resetPend = s.reg.resetPend := rfl
@[simp] theorem countUp_reg_sinceReset (a n : Nat) : (countUp a n s).reg.sinceReset = s.reg.sinceReset := rfl
@[simp] theorem countUp_reg_gates (a n : Nat) : (countUp a n s).reg.gates = s.reg.gates := rfl
@[simp] theorem countUp_reg_gateAfter (a n : Nat) : (countUp a n s).reg.gateAfter = s.reg.gateAfter := rfl
@[simp] theorem countUp_reg_errAddr (a n : Nat) : (countUp a n s).reg.errAddr = s.reg.errAddr := rfl
@[simp] theorem countUp_reg_errCause (a n : Nat) : (countUp a n s).reg.errCause = s.reg.errCause := rfl
@[simp] theorem countUp_reg_stale (a n : Nat) : (countUp a n s).reg.stale = s.reg.stale := rfl

@[simp] theorem setWr_reg_inForce (a : Nat) (w : Word) : (setWr a w s).reg.inForce = s.reg.inForce := rfl
@[simp] theorem setWr_reg_flags (a : Nat) (w : Word) : (setWr a w s).reg.flags = s.reg.flags := rfl
@[simp] theorem setWr_reg_irq (a : Nat) (w : Word) : (setWr a w s).reg.irq = s.reg.irq := rfl
@[simp] theorem setWr_reg_counts (a : Nat) (w : Word) : (setWr a w s).reg.counts = s.reg.counts := rfl
@[simp] theorem setWr_reg_holds (a : Nat) (w : Word) : (setWr a w s).reg.holds = s.reg.holds := rfl
@[simp] theorem setWr_reg_resetPend (a : Nat) (w : Word) : (setWr a w s).reg.resetPend = s.reg.resetPend := rfl
@[simp] theorem setWr_reg_sinceReset (a : Nat) (w : Word) : (setWr a w s).reg.sinceReset = s.reg.sinceReset := rfl
@[simp] theorem setWr_reg_gates (a : Nat) (w : Word) : (setWr a w s).reg.gates = s.reg.gates := rfl
@[simp] theorem setWr_reg_gateAfter (a : Nat) (w : Word) : (setWr a w s).reg.gateAfter = s.reg.gateAfter := rfl
@[simp] theorem setWr_reg_errAddr (a : Nat) (w : Word) : (setWr a w s).reg.errAddr = s.reg.errAddr := rfl
@[simp] theorem setWr_reg_errCause (a : Nat) (w : Word) : (setWr a w s).reg.errCause = s.reg.errCause := rfl
@[simp] theorem setWr_reg_stale (a : Nat) (w : Word) : (setWr a w s).reg.stale = s.reg.stale := rfl

@[simp] theorem markStale_reg_written : (markStale s).reg.written = s.reg.written := rfl
@[simp] theorem markStale_reg_inForce : (markStale s).reg.inForce = s.reg.inForce := rfl
@[simp] theorem markStale_reg_flags : (markStale s).reg.flags = s.reg.flags := rfl
@[simp] theorem markStale_reg_irq : (markStale s).reg.irq = s.reg.irq := rfl
@[simp] theorem markStale_reg_counts : (markStale s).reg.counts = s.reg.counts := rfl
@[simp] theorem markStale_reg_holds : (markStale s).reg.holds = s.reg.holds := rfl
@[simp] theorem markStale_reg_resetPend : (markStale s).reg.resetPend = s.reg.resetPend := rfl
@[simp] theorem markStale_reg_sinceReset : (markStale s).reg.sinceReset = s.reg.sinceReset := rfl
@[simp] theorem markStale_reg_gates : (markStale s).reg.gates = s.reg.gates := rfl
@[simp] theorem markStale_reg_gateAfter : (markStale s).reg.gateAfter = s.reg.gateAfter := rfl
@[simp] theorem markStale_reg_errAddr : (markStale s).reg.errAddr = s.reg.errAddr := rfl
@[simp] theorem markStale_reg_errCause : (markStale s).reg.errCause = s.reg.errCause := rfl

end Sys2Proof.Laws
end

