-- ==== Sys2Proof/Laws/Table.lean ====
section
/-! SUPPORT. Sparse tables: what a key reads as after a write, and that every table operation keeps the canonical
form. -/

namespace Sys2Proof.Laws

open Machine

variable {α : Type} [DecidableEq α] (d : Nat → α)

/-- Every key of a table lies above `k`. -/
def above (k : Nat) (m : Table α) : Prop := ∀ e ∈ m, k < e.1

theorem twf_cons (k : Nat) (v : α) (m : Table α) :
    twf d ((k, v) :: m) = true ↔ v ≠ d k ∧ above k m ∧ twf d m = true := by
  induction m generalizing k v with
  | nil => simp [twf, above]
  | cons e m ih =>
    obtain ⟨j, w⟩ := e
    have h := ih j w
    constructor
    · intro hw
      simp only [twf, Bool.and_eq_true, decide_eq_true_eq] at hw
      refine ⟨hw.1.1, ?_, hw.2⟩
      intro e he
      rcases List.mem_cons.1 he with rfl | he
      · exact hw.1.2
      · exact Nat.lt_trans hw.1.2 ((h.1 hw.2).2.1 e he)
    · intro hw
      simp only [twf, Bool.and_eq_true, decide_eq_true_eq]
      exact ⟨⟨hw.1, hw.2.1 _ (List.mem_cons_self ..)⟩, hw.2.2⟩

omit [DecidableEq α] in
theorem tget_above {k j : Nat} {m : Table α} (h : above k m) (hj : j ≤ k) : tget d m j = d j := by
  induction m with
  | nil => rfl
  | cons e m ih =>
    have he := h e (List.mem_cons_self ..)
    obtain ⟨i, w⟩ := e
    simp only [tget]
    rw [if_neg (by simp at he; omega)]
    exact ih fun x hx => h x (List.mem_cons_of_mem _ hx)

omit [DecidableEq α] in
theorem above_tput {j k : Nat} {v : α} {m : Table α} (hj : j < k) (h : above j m) : above j (tput m k v) := by
  induction m with
  | nil =>
    intro e he
    rcases List.mem_cons.1 he with rfl | he
    · exact hj
    · cases he
  | cons e m ih =>
    obtain ⟨i, w⟩ := e
    have hm : above j m := fun x hx => h x (List.mem_cons_of_mem _ hx)
    simp only [tput]
    split
    · intro x hx
      rcases List.mem_cons.1 hx with rfl | hx
      · exact hj
      · exact h x hx
    · split
      · intro x hx
        rcases List.mem_cons.1 hx with rfl | hx
        · exact hj
        · exact hm x hx
      · intro x hx
        rcases List.mem_cons.1 hx with rfl | hx
        · exact h _ (List.mem_cons_self ..)
        · exact ih hm x hx

theorem twf_tput {m : Table α} (h : twf d m = true) {k : Nat} {v : α} (hv : v ≠ d k) : twf d (tput m k v) = true := by
  induction m with
  | nil => exact (twf_cons d k v []).2 ⟨hv, (fun e he => by cases he), rfl⟩
  | cons e m ih =>
    obtain ⟨j, w⟩ := e
    have hc := (twf_cons d j w m).1 h
    simp only [tput]
    split
    · refine (twf_cons d k v _).2 ⟨hv, ?_, h⟩
      intro x hx
      rcases List.mem_cons.1 hx with rfl | hx
      · assumption
      · exact Nat.lt_trans ‹k < j› (hc.2.1 x hx)
    · split
      · subst ‹k = j›
        exact (twf_cons d k v m).2 ⟨hv, hc.2.1, hc.2.2⟩
      · exact (twf_cons d j w _).2 ⟨hc.1, above_tput (by omega) hc.2.1, ih hc.2.2⟩

/-- Clearing a range keeps the canonical form. -/
theorem twf_filter {m : Table α} (h : twf d m = true) (p : Nat × α → Bool) : twf d (m.filter p) = true := by
  induction m with
  | nil => exact h
  | cons e m ih =>
    obtain ⟨j, w⟩ := e
    have hc := (twf_cons d j w m).1 h
    rw [List.filter_cons]
    split
    · exact (twf_cons d j w _).2 ⟨hc.1, fun x hx => hc.2.1 x ((List.mem_filter.1 hx).1), ih hc.2.2⟩
    · exact ih hc.2.2

theorem twf_tclear {m : Table α} (h : twf d m = true) (lo hi : Nat) : twf d (tclear m lo hi) = true :=
  twf_filter d h _

omit [DecidableEq α] in
/-- Dropping entries of other keys leaves what a key reads as. -/
theorem tget_filter {m : Table α} {k : Nat} (p : Nat × α → Bool) (h : ∀ v, p (k, v) = true) :
    tget d (m.filter p) k = tget d m k := by
  induction m with
  | nil => rfl
  | cons e m ih =>
    obtain ⟨j, v⟩ := e
    by_cases hj : j = k
    · subst hj; simp [List.filter, h, tget]
    · cases hp : p (j, v) <;> simp [List.filter, hp, tget, hj, ih]

omit [DecidableEq α] in
/-- A key whose entries are all dropped reads as the default. -/
theorem tget_filter_gone {m : Table α} {k : Nat} (p : Nat × α → Bool) (h : ∀ v, p (k, v) = false) :
    tget d (m.filter p) k = d k := by
  induction m with
  | nil => rfl
  | cons e m ih =>
    obtain ⟨j, v⟩ := e
    by_cases hj : j = k
    · subst hj; simp [List.filter, h, ih]
    · cases hp : p (j, v) <;> simp [List.filter, hp, tget, hj, ih]

omit [DecidableEq α] in
theorem tget_tput (m : Table α) (k : Nat) (v : α) (j : Nat) :
    tget d (tput m k v) j = if j = k then v else tget d m j := by
  induction m with
  | nil =>
    by_cases hj : j = k
    · subst hj; simp [tput, tget]
    · simp [tput, tget, hj, Ne.symm hj]
  | cons e m ih =>
    obtain ⟨i, w⟩ := e
    simp only [tput]
    split
    · by_cases hj : j = k
      · subst hj; simp [tget]
      · simp [tget, hj, Ne.symm hj]
    · split
      · subst ‹k = i›
        by_cases hj : j = k
        · subst hj; simp [tget]
        · simp [tget, hj, Ne.symm hj]
      · by_cases hj : i = j
        · subst hj; simp [tget, Ne.symm ‹¬k = i›]
        · simp [tget, hj, ih]

/-- What a key reads as after a write, in any list. -/
theorem tget_tset (m : Table α) (k : Nat) (v : α) (j : Nat) :
    tget d (tset d m k v) j = if j = k then v else tget d m j := by
  unfold tset
  split
  · next hv =>
    by_cases hj : j = k
    · subst hj
      rw [tget_filter_gone d _ (by simp), if_pos rfl, hv]
    · rw [tget_filter d _ (by intro; simpa using hj), if_neg hj]
  · exact tget_tput d m k v j

/-- The same for a change in place. -/
theorem tget_tmod (m : Table α) (k : Nat) (f : α → α) (j : Nat) :
    tget d (tmod d m k f) j = if j = k then f (tget d m k) else tget d m j := tget_tset d m k _ j

/-- A key that is written reads as what was written. -/
theorem tget_tset_self (m : Table α) (k : Nat) (v : α) : tget d (tset d m k v) k = v := by
  rw [tget_tset, if_pos rfl]

/-- Writing one key leaves what every other reads as. -/
theorem tget_tset_other {m : Table α} {k j : Nat} (v : α) (h : j ≠ k) : tget d (tset d m k v) j = tget d m j := by
  rw [tget_tset, if_neg h]

/-- A write keeps the canonical form. -/
theorem twf_tset {m : Table α} (h : twf d m = true) (k : Nat) (v : α) : twf d (tset d m k v) = true := by
  unfold tset
  split
  · exact twf_filter d h _
  · exact twf_tput d h ‹_›

theorem twf_tmod {m : Table α} (h : twf d m = true) (k : Nat) (f : α → α) : twf d (tmod d m k f) = true :=
  twf_tset d h k _

omit [DecidableEq α] in
/-- A key that no entry lists reads as the default. -/
theorem tget_notin {m : Table α} {k : Nat} (h : k ∉ m.map (·.1)) : tget d m k = d k := by
  induction m with
  | nil => rfl
  | cons e m ih =>
    obtain ⟨j, v⟩ := e
    simp only [List.map_cons, List.mem_cons, not_or] at h
    simp only [tget]
    rw [if_neg (fun g => h.1 g.symm)]
    exact ih h.2

end Sys2Proof.Laws
end

