-- ==== Sys2Proof/Laws/Fault.lean ====
section
/-! SUPPORT. What the operations shared by many commands can do, said once for each: flags, interrupts, counters,
strobes, entries, tenants, and the taking of a fatal, a tenant or an entry fault. -/

namespace Sys2Proof.Laws

open Machine

/-- Raising an interrupt bit touches IRQ_STAT alone. -/
theorem irqRaise_frame (p : Page) (k : Nat) (s : Block) :
    irqRaise p k s = { s with reg := { s.reg with irq := (irqRaise p k s).reg.irq } } := rfl

/-- Raising a flag touches the W1C bits alone. -/
theorem flagRaise_frame (p : Page) (k : Nat) (s : Block) :
    flagRaise p k s = { s with reg := { s.reg with flags := (flagRaise p k s).reg.flags } } := rfl

/-- Counting touches the counters alone. -/
theorem countUp_frame (a n : Nat) (s : Block) :
    countUp a n s = { s with reg := { s.reg with counts := (countUp a n s).reg.counts } } := rfl

/-- A strobe touches the strobes in flight alone. -/
theorem strobe_frame (e : Strobe) (s : Block) : strobe e s = { s with strobes := (strobe e s).strobes } := by
  unfold strobe; split <;> rfl

/-- Driving a port touches its log alone. -/
theorem emit_frame (o : PortOut) (s : Block) : emit o s = { s with out := s.out ++ [o] } := rfl

/-- An entry replaced touches the entries alone. -/
theorem setEntry_frame (i : Nat) (e : Entry) (s : Block) :
    setEntry i e s = { s with entries := (setEntry i e s).entries } := rfl

/-- A tenant replaced touches the tenants alone. -/
theorem setTenant_frame (n : Nat) (t : Tenant) (s : Block) :
    setTenant n t s = { s with tenants := (setTenant n t s).tenants } := rfl

/-- A context replaced touches the two contexts alone. -/
theorem setCtx_frame (i : Nat) (c : Option Ctx) (s : Block) :
    setCtx i c s = { s with ctx0 := (setCtx i c s).ctx0, ctx1 := (setCtx i c s).ctx1 } := by
  unfold setCtx; split <;> rfl

/-- A fatal fault after the first changes nothing. -/
theorem fatal_later (c a : Nat) {s : Block} (h : s.fault = true) : fatal c a s = s := by simp [fatal, h]

/-- Everything the first fatal fault does: the record, the strobe, GLB's interrupt, the passes and the memory side
lost, a load ended, a watchdog window fired; the rest of the block stands. -/
theorem fatal_first (c a : Nat) {s : Block} (h : s.fault = false) :
    fatal c a s = { s with
      fault := true, faultCode := c, faultAddr := a
      strobes := (strobe .openDrop s).strobes
      ctx0 := none, ctx1 := none, running := none, forming := none
      mem := { s.mem with xfers := [], walks := [], fqueue := [], fqWait := [], xltHeld := [], done := [] }
      cfg := { s.cfg with loadBusy := false, wdRollback := s.cfg.wdRollback || s.cfg.wdOpen }
      reg := { s.reg with
        irq := tmod zeroWord s.reg.irq 0 fun w => w ||| w32 (2 ^ 0)
        flags :=
          let f := if s.cfg.loadBusy then tmod zeroWord s.reg.flags 0x003000 fun w => w ||| w32 (2 ^ 8) else s.reg.flags
          if s.cfg.wdOpen then tmod zeroWord f 0x003000 fun w => w ||| w32 (2 ^ 5) else f } } := by
  unfold fatal
  rw [strobe_frame]
  generalize (strobe .openDrop s).strobes = st
  cases hl : s.cfg.loadBusy <;> cases hw : s.cfg.wdOpen <;>
    simp [h, hl, hw, irqRaise, flagRaise, pageBase] <;> (cases s; rename_i cfg _ _ _ _ _ _ _ _ _ _ _ _ _ _ _ _ _ _ _ _ _ _ _ _ _ _ _ _ _ _ _ _ _ _ _ _; cases cfg; simp_all)

/-! Register values as written. -/

/-- A register reads as its own write unless that is another. -/
theorem wr_setWr_other {a b : Nat} (w : Word) (s : Block) (h : b ≠ a) : wr (setWr a w s) b = wr s b :=
  tget_tset_other _ _ h

/-- Registers as written depend on the written values alone. -/
theorem wr_congr {s t : Block} (h : s.reg.written = t.reg.written) (a : Nat) : wr s a = wr t a := by simp [wr, h]

/-- MIN_DIV depends on the written values alone. -/
theorem minDiv_congr {s t : Block} (h : s.reg.written = t.reg.written) : minDiv s = minDiv t := by
  simp [minDiv, wr, h]

/-- A write elsewhere leaves MIN_DIV. -/
theorem minDiv_setWr {a : Nat} (w : Word) (s : Block) (h : reg .clk 0x080 ≠ a) : minDiv (setWr a w s) = minDiv s := by
  unfold minDiv; rw [wr_setWr_other _ _ h]

/-- A flag raised reads 1. -/
theorem raised_bit (t : Table Word) (p k : Nat) (hk : k < 32) :
    bit (tget zeroWord (tmod zeroWord t p fun w => w ||| w32 (2 ^ k)) p) k = true := by
  have h2 : 2 ^ k < 2 ^ 32 := Nat.pow_lt_pow_right (by omega) hk
  have hx : ∀ x : Word, bit (x ||| w32 (2 ^ k)) k = true := by
    intro x
    simp only [bit, w32, BitVec.toNat_or, BitVec.toNat_ofNat, Nat.testBit_or]
    rw [Nat.mod_eq_of_lt h2, Nat.testBit_two_pow_self]; simp
  have hn : ∀ x : Word, x ||| w32 (2 ^ k) ≠ zeroWord p := by
    intro x he; have := hx x; rw [he] at this; simp [zeroWord, bit] at this
  unfold tmod
  rw [tget_tset_self]
  exact hx _

/-- The power controller that is calm stays as it is (R398). -/
theorem autoState_calm {s : Block} (h1 : s.pwr.state = .run) (h2 : s.pwr.stop = false) (h3 : s.pwr.thLevel ≤ minDiv s)
    (h4 : s.pwr.plLevel ≤ minDiv s) : autoState s = s := by
  simp [autoState, h1, h2, Nat.not_lt.2 h3, Nat.not_lt.2 h4]

/-- The tier wakes only with its rail good. -/
theorem tierWake_off {s : Block} (h : s.pwr.pgCmp = false) : tierWake s = s := by simp [tierWake, h]

/-- The fast domains start only with the tier powered. -/
theorem fastStart_down {s : Block} (h : s.pwr.cmpUp = false) : fastStart s = s := by simp [fastStart, h]

/-! Gates and the tier. -/

/-- A gate set reads as set. -/
theorem gate_set (g : Page) (st : GateState) (b : Block) : gateOf (setGate g st b) g = st := by
  unfold gateOf setGate
  simp only
  have hf : (b.reg.gates.filter fun x => decide (x.1 ≠ pageBase g)).find? (fun x => decide (x.1 = pageBase g)) = none := by
    rw [List.find?_eq_none]; intro x hx; simp at hx ⊢; exact hx.2
  split
  · rename_i x h
    split at h
    · rw [hf] at h; cases h
    · rw [List.find?_append, hf] at h; simp at h; rw [← h]
  · rename_i h
    split at h
    · rename_i h2; exact h2.symm
    · rw [List.find?_append, hf] at h; simp at h

/-- Setting one page's gate leaves every other's. -/
theorem gate_other (g q : Page) (st : GateState) (b : Block) (h : pageBase q ≠ pageBase g) : gateOf (setGate g st b) q = gateOf b q := by
  unfold gateOf setGate
  have hf : (b.reg.gates.filter fun x => decide (x.1 ≠ pageBase g)).find? (fun x => decide (x.1 = pageBase q)) = b.reg.gates.find? (fun x => decide (x.1 = pageBase q)) := by
    rw [List.find?_filter]
    congr 1; funext x
    by_cases h2 : x.1 = pageBase q
    · simp [h2, h]
    · simp [h2]
  have : ∀ l : List (Nat × GateState), (l ++ [(pageBase g, st)]).find? (fun x => decide (x.1 = pageBase q)) = l.find? (fun x => decide (x.1 = pageBase q)) := by
    intro l; simp [List.find?_append, Ne.symm h]
  simp only
  by_cases hs : st = GateState.running
  · simp only [if_pos hs]; rw [hf]
  · simp only [if_neg hs]; rw [this, hf]

/-- Starting the fast domains leaves the clock source. -/
theorem fastStart_src (b : Block) : (fastStart b).pwr.src = b.pwr.src ∧ (fastStart b).pwr.usePll = b.pwr.usePll := by
  unfold fastStart; simp only; split
  · split <;> exact ⟨rfl, rfl⟩
  · exact ⟨rfl, rfl⟩

/-- Waking the tier leaves the clock source. -/
theorem tierWake_src (b : Block) : (tierWake b).pwr.src = b.pwr.src ∧ (tierWake b).pwr.usePll = b.pwr.usePll := by
  unfold tierWake queueRamp startSlot; simp only; split
  · split <;> exact ⟨rfl, rfl⟩
  · exact ⟨rfl, rfl⟩

end Sys2Proof.Laws
end

