-- ==== Sys2Proof/Laws/Fetch.lean ====
section
/-! SUPPORT. What the walking of a pass can change: the two contexts, which of them runs, and the memory side. -/

namespace Sys2Proof.Laws

open Machine

/-- `t` differs from `s` in the pass contexts and the memory side alone. -/
def Walks (s t : Block) : Prop :=
  t = { s with ctx0 := t.ctx0, ctx1 := t.ctx1, running := t.running, mem := t.mem }

theorem walks_refl (s : Block) : Walks s s := rfl

theorem walks_trans {s t u : Block} (h : Walks s t) (k : Walks t u) : Walks s u := by
  unfold Walks at h k ⊢; rw [k, h]

/-- A fold of walking operations walks. -/
theorem walks_foldl {α : Type} (f : Block → α → Block) (hf : ∀ s a, Walks s (f s a)) (l : List α) (s : Block) :
    Walks s (l.foldl f s) := by
  induction l generalizing s with
  | nil => exact walks_refl s
  | cons a l ih => exact walks_trans (hf s a) (ih _)

theorem walks_setCtx (i : Nat) (c : Option Ctx) (s : Block) : Walks s (setCtx i c s) := by
  unfold setCtx; split <;> rfl

theorem walks_modCtx (i : Nat) (f : Ctx → Ctx) (s : Block) : Walks s (modCtx i f s) := by
  unfold modCtx; split
  · exact walks_setCtx _ _ _
  · rfl

theorem walks_request (w : Bool) (a n : Nat) (d : List Byte) (k : Nat) (t : Option Nat) (r : Rights) (c : Option Nat)
    (p : Purpose) (s : Block) : Walks s (request w a n d k t r c p s) := by
  unfold request; split <;> rfl

theorem walks_askRow (i r : Nat) (s : Block) : Walks s (askRow i r s) := by
  unfold askRow
  split
  · rfl
  · split
    · rfl
    · split
      · rfl
      · exact walks_request _ _ _ _ _ _ _ _ _ _

theorem walks_askData (i e : Nat) (s : Block) : Walks s (askData i e s) := by
  unfold askData
  split
  · rfl
  · split
    · split
      · rfl
      · split
        · split
          · exact walks_request _ _ _ _ _ _ _ _ _ _
          · rfl
        · exact walks_request _ _ _ _ _ _ _ _ _ _
    · rfl

theorem walks_askPanel (i t g cb : Nat) (p : Nat × Nat) (s : Block) : Walks s (askPanel i t g cb p s) := by
  unfold askPanel
  split
  · rfl
  · exact walks_request _ _ _ _ _ _ _ _ _ _

theorem walks_askWeights (i t g cb : Nat) (s : Block) : Walks s (askWeights i t g cb s) := by
  unfold askWeights
  split
  · rfl
  · split
    · rfl
    · exact walks_trans (walks_setCtx _ _ _) (walks_foldl _ (fun _ _ => walks_askPanel _ _ _ _ _ _) _ _)

theorem walks_askSlice (i t g : Nat) (s : Block) : Walks s (askSlice i t g s) := by
  unfold askSlice
  split
  · rfl
  · split
    · rfl
    · split
      · exact walks_trans (walks_askWeights _ _ _ _ _) (walks_askWeights _ _ _ _ _)
      · exact walks_foldl _ (fun _ _ => walks_askWeights _ _ _ _ _) _ _

theorem walks_askTile (i : Nat) (s : Block) : Walks s (askTile i s) := by
  unfold askTile
  split
  · rfl
  · simp only
    split
    · exact walks_trans (walks_askSlice _ _ _ _) (walks_askSlice _ _ _ _)
    · exact walks_askSlice _ _ _ _

theorem walks_startTile (i : Nat) (s : Block) : Walks s (startTile i s) := by
  unfold startTile
  split
  · rfl
  · exact walks_trans (walks_setCtx _ _ _) (walks_askTile _ _)

theorem walks_dropPanels (i : Nat) (p : Nat → Bool) (s : Block) : Walks s (dropPanels i p s) := rfl

theorem walks_askAdapter (i t slot : Nat) (c : Ctx) (s : Block) : Walks s (askAdapter i t slot c s) :=
  walks_trans (walks_trans (walks_dropPanels _ _ _) (walks_setCtx _ _ _)) (walks_request _ _ _ _ _ _ _ _ _ _)

theorem walks_advanceChunk (i : Nat) (s : Block) : Walks s (advanceChunk i s) := by
  unfold advanceChunk
  split
  · rfl
  · split
    · rfl
    · split
      · split
        · rfl
        · exact walks_askAdapter _ _ _ _ _
      · simp only
        split
        · exact walks_askSlice _ _ _ _
        · split
          · exact walks_askSlice _ _ _ _
          · exact walks_trans (walks_trans (walks_askSlice _ _ _ _) (walks_setCtx _ _ _)) (walks_startTile _ _)

theorem walks_startChunk (i : Nat) (s : Block) : Walks s (startChunk i s) := by
  unfold startChunk
  split
  · rfl
  · refine walks_trans (walks_trans (walks_trans (walks_setCtx _ _ _) (walks_foldl _ ?_ _ _)) (walks_foldl _ ?_ _ _))
      (walks_advanceChunk _ _)
    · intro s k; split
      · split
        · exact walks_askRow _ _ _
        · rfl
      · rfl
    · intro s q; exact walks_askData _ _ _

theorem walks_restartChunk (i : Nat) (s : Block) : Walks s (restartChunk i s) := by
  unfold restartChunk
  split
  · rfl
  · exact walks_trans (walks_setCtx _ _ _) (walks_startChunk _ _)

theorem walks_requestPark (b : Bool) (r : Nat) (s : Block) : Walks s (requestPark b r s) := by
  unfold requestPark
  split
  · rfl
  · exact walks_modCtx _ _ _

theorem walks_askRepair (i : Nat) (s : Block) : Walks s (askRepair i s) := by
  unfold askRepair
  split
  · rfl
  · split
    · split
      · exact walks_askAdapter _ _ _ _ _
      · rfl
    · exact walks_askTile _ _
    · rfl

theorem walks_askMissing (i : Nat) (s : Block) : Walks s (askMissing i s) := by
  unfold askMissing
  split
  · rfl
  · refine walks_trans (walks_foldl _ (fun s k => ?_) _ _) (walks_askRepair _ _)
    split
    · split
      · exact walks_askRow _ _ _
      · rfl
    · rfl

/-- Resuming a pass that has not reached its decision walks; past its last tile a peer may send. -/
theorem walks_resumeCtx (i : Nat) (s : Block) (h : ∀ c, ctxOf s i = some c → c.phase ≠ .decide) : Walks s (resumeCtx i s) := by
  unfold resumeCtx
  split
  · rename_i c hc
    split
    · simp only
      have k : ∀ c : Option Ctx, Walks s (setCtx i c { s with running := some i }) := fun c =>
        walks_trans (t := { s with running := some i }) rfl (walks_setCtx _ _ _)
      split
      · exact walks_trans (k _) (walks_restartChunk _ _)
      · exact walks_trans (walks_trans (k _) (walks_askMissing _ _)) (walks_startTile _ _)
      · rename_i hp; exact absurd hp (h c hc)
      · exact k _
    · rfl
  · rfl

theorem walks_askGuard (i : Nat) (s : Block) : Walks s (askGuard i s) := by
  unfold askGuard
  split
  · rfl
  · exact walks_request _ _ _ _ _ _ _ _ _ _

theorem walks_dropFetches (i : Nat) (s : Block) : Walks s (dropFetches i s) := rfl

end Sys2Proof.Laws
end

