-- ==== Sys2Proof/Laws/Outcome.lean ====
section
/-! SUPPORT. What a command answers: outside test mode each command of the block takes a next state that leaves the
meter island and the queue alone; each command of the island takes a next state in every state. -/

namespace Sys2Proof.Laws

open Machine

/-- Outside test mode a command of the block has its effect on the block and on nothing else. -/
theorem mission_next (f : Block → Block) {s : State} (h : s.blk.testMode = false) :
    mission f s = .next { s with blk := f s.blk } := by simp [mission, h]

/-- In test mode it stops. -/
theorem mission_stop (f : Block → Block) {s : State} (h : s.blk.testMode = true) :
    mission f s = .fault .testModeHigh := by simp [mission, h]

/-- Everything a command of the block can do. -/
theorem mission_cases (f : Block → Block) {s t : State} (h : mission f s = .next t) :
    s.blk.testMode = false ∧ t = { s with blk := f s.blk } := by
  cases ht : s.blk.testMode with
  | true => simp [mission, ht] at h
  | false => exact ⟨rfl, by simp [mission, ht] at h; exact h.symm⟩

/-- A port command answers the write and what the ports then issue. -/
theorem portCommand_next (a : Nat) (w : Word) (p : BitVec 4) {s : State} (h : s.blk.testMode = false) :
    portCommand a w p s = .next { s with blk := settle (portWrite a w p s.blk) } := mission_next _ h

/-- An event of the block with a control clock. -/
theorem blockEvent_next (f : Block → Block) {s : State} (h : s.blk.testMode = false) (hc : ctrlClock s.blk = true) :
    blockEvent f s = .next { s with blk := settle (f s.blk) } := by
  simp [blockEvent, mission_next _ h, clocked, hc]

/-- An event of the block without one. -/
theorem blockEvent_dark (f : Block → Block) {s : State} (h : s.blk.testMode = false) (hc : ctrlClock s.blk = false) :
    blockEvent f s = .next { s with blk := settle s.blk } := by
  simp [blockEvent, mission_next _ h, clocked, hc]

/-- With no transfer open nothing settles. -/
theorem settleLoop_idle (n : Nat) {b : Block} (h : b.mem.xfers = []) (hd : b.mem.done = []) :
    settleLoop n b = b := by
  cases n with
  | zero => rfl
  | succ n => simp [settleLoop, pump, pumpAll, h, hd]

/-- With no transfer open and outside DRAIN a command is followed by nothing. -/
theorem settle_idle {b : Block} (h : b.mem.xfers = []) (hd : b.mem.done = []) (hp : b.pwr.state ≠ .drain) :
    settle b = b := by
  simp [settle, settleLoop_idle _ h hd, duskCheck, hp]

/-- Every command but those of the island is a command of the block. -/
theorem exec_block (c : Instr) (h : Claims.ofIsland c = false) : ∃ f : Block → Block, ∀ s, exec c s = mission f s := by
  cases c with
  | registerWrite a0 a1 a2 => exact ⟨_, exec_registerWrite a0 a1 a2⟩
  | latchingRead a0 => exact ⟨_, exec_latchingRead a0⟩
  | tableWindowWrite a0 a1 a2 => exact ⟨_, exec_tableWindowWrite a0 a1 a2⟩
  | launchPush a0 a1 => exact ⟨_, exec_launchPush a0 a1⟩
  | meridianWord a0 => exact ⟨_, exec_meridianWord a0⟩
  | launch a0 a1 => exact ⟨_, exec_launch a0 a1⟩
  | batchForm => exact ⟨_, exec_batchForm⟩
  | guardCheckBegin => exact ⟨_, exec_guardCheckBegin⟩
  | guardPoll => exact ⟨_, exec_guardPoll⟩
  | guardTimeout a0 => exact ⟨_, exec_guardTimeout a0⟩
  | memReadResponse a0 a1 a2 a3 a4 => exact ⟨_, exec_memReadResponse a0 a1 a2 a3 a4⟩
  | memWriteResponse a0 a1 a2 => exact ⟨_, exec_memWriteResponse a0 a1 a2⟩
  | memTimeout a0 a1 a2 => exact ⟨_, exec_memTimeout a0 a1 a2⟩
  | rowNormalised a0 => exact ⟨_, exec_rowNormalised a0⟩
  | adapterRun => exact ⟨_, exec_adapterRun⟩
  | tileComplete a0 => exact ⟨_, exec_tileComplete a0⟩
  | deliveryBlock a0 a1 a2 => exact ⟨_, exec_deliveryBlock a0 a1 a2⟩
  | deliveryFold a0 => exact ⟨_, exec_deliveryFold a0⟩
  | passPark => exact ⟨_, exec_passPark⟩
  | decision a0 => exact ⟨_, exec_decision a0⟩
  | genDraw => exact ⟨_, exec_genDraw⟩
  | requestCommitStart a0 => exact ⟨_, exec_requestCommitStart a0⟩
  | stateRecordWrite a0 => exact ⟨_, exec_stateRecordWrite a0⟩
  | requestCommitted a0 => exact ⟨_, exec_requestCommitted a0⟩
  | doneCounterWrite => exact ⟨_, exec_doneCounterWrite⟩
  | stepDone a0 => exact ⟨_, exec_stepDone a0⟩
  | cmdNone a0 => exact ⟨_, exec_cmdNone a0⟩
  | cmdAdmit a0 => exact ⟨_, exec_cmdAdmit a0⟩
  | cmdImport a0 => exact ⟨_, exec_cmdImport a0⟩
  | cmdCancel a0 => exact ⟨_, exec_cmdCancel a0⟩
  | cmdBlock a0 => exact ⟨_, exec_cmdBlock a0⟩
  | cmdUnblock a0 => exact ⟨_, exec_cmdUnblock a0⟩
  | cmdPause a0 => exact ⟨_, exec_cmdPause a0⟩
  | cmdChunk a0 => exact ⟨_, exec_cmdChunk a0⟩
  | cmdExport a0 => exact ⟨_, exec_cmdExport a0⟩
  | cmdRelease a0 => exact ⟨_, exec_cmdRelease a0⟩
  | cmdClear a0 => exact ⟨_, exec_cmdClear a0⟩
  | spillCancel a0 => exact ⟨_, exec_spillCancel a0⟩
  | spillBlock a0 => exact ⟨_, exec_spillBlock a0⟩
  | spillUnblock a0 => exact ⟨_, exec_spillUnblock a0⟩
  | resume a0 => exact ⟨_, exec_resume a0⟩
  | spillRelease a0 => exact ⟨_, exec_spillRelease a0⟩
  | ttlExpiry a0 => exact ⟨_, exec_ttlExpiry a0⟩
  | transferDone a0 => exact ⟨_, exec_transferDone a0⟩
  | grant a0 a1 a2 => exact ⟨_, exec_grant a0 a1 a2⟩
  | faultClear a0 a1 a2 => exact ⟨_, exec_faultClear a0 a1 a2⟩
  | tenantReset a0 a1 a2 => exact ⟨_, exec_tenantReset a0 a1 a2⟩
  | progSwitch a0 a1 => exact ⟨_, exec_progSwitch a0 a1⟩
  | freqSwitch a0 a1 => exact ⟨_, exec_freqSwitch a0 a1⟩
  | sfuTableCheckDone a0 => exact ⟨_, exec_sfuTableCheckDone a0⟩
  | maskSwitch a0 a1 => exact ⟨_, exec_maskSwitch a0 a1⟩
  | autoSwitch a0 a1 => exact ⟨_, exec_autoSwitch a0 a1⟩
  | biasSwitch a0 a1 => exact ⟨_, exec_biasSwitch a0 a1⟩
  | penSwitch a0 a1 => exact ⟨_, exec_penSwitch a0 a1⟩
  | selTableCheckDone => exact ⟨_, exec_selTableCheckDone⟩
  | genGo a0 a1 => exact ⟨_, exec_genGo a0 a1⟩
  | switch a0 a1 => exact ⟨_, exec_switch a0 a1⟩
  | rollback a0 a1 => exact ⟨_, exec_rollback a0 a1⟩
  | cfgCheckDone => exact ⟨_, exec_cfgCheckDone⟩
  | confirm a0 a1 => exact ⟨_, exec_confirm a0 a1⟩
  | loadGo a0 a1 => exact ⟨_, exec_loadGo a0 a1⟩
  | loadBeat => exact ⟨_, exec_loadBeat⟩
  | repairApply a0 a1 => exact ⟨_, exec_repairApply a0 a1⟩
  | repairApplyDone => exact ⟨_, exec_repairApplyDone⟩
  | corrClear a0 a1 => exact ⟨_, exec_corrClear a0 a1⟩
  | stateReqRun a0 a1 => exact ⟨_, exec_stateReqRun a0 a1⟩
  | stateReqDrain a0 a1 => exact ⟨_, exec_stateReqDrain a0 a1⟩
  | stateReqRetain a0 a1 => exact ⟨_, exec_stateReqRetain a0 a1⟩
  | stateReqOff a0 a1 => exact ⟨_, exec_stateReqOff a0 a1⟩
  | cmpIsolated => exact ⟨_, exec_cmpIsolated⟩
  | forceFault a0 a1 => exact ⟨_, exec_forceFault a0 a1⟩
  | blockSoftReset a0 a1 => exact ⟨_, exec_blockSoftReset a0 a1⟩
  | resetComplete => exact ⟨_, exec_resetComplete⟩
  | pageSoftReset a0 a1 a2 => exact ⟨_, exec_pageSoftReset a0 a1 a2⟩
  | gateRequest a0 a1 a2 => exact ⟨_, exec_gateRequest a0 a1 a2⟩
  | wakeRequest a0 a1 a2 => exact ⟨_, exec_wakeRequest a0 a1 a2⟩
  | gateEffect a0 => exact ⟨_, exec_gateEffect a0⟩
  | wakeDone a0 => exact ⟨_, exec_wakeDone a0⟩
  | usePllSet a0 a1 => exact ⟨_, exec_usePllSet a0 a1⟩
  | haltClear a0 a1 => exact ⟨_, exec_haltClear a0 a1⟩
  | xltRetry a0 a1 => exact ⟨_, exec_xltRetry a0 a1⟩
  | xltAbort a0 a1 => exact ⟨_, exec_xltAbort a0 a1⟩
  | fqPop a0 a1 => exact ⟨_, exec_fqPop a0 a1⟩
  | invalGo a0 a1 => exact ⟨_, exec_invalGo a0 a1⟩
  | invalDone => exact ⟨_, exec_invalDone⟩
  | ridgeFrameRx a0 a1 a2 => exact ⟨_, exec_ridgeFrameRx a0 a1 a2⟩
  | batchMessage a0 => exact ⟨_, exec_batchMessage a0⟩
  | pullMessage => exact ⟨_, exec_pullMessage⟩
  | partMessage a0 a1 => exact ⟨_, exec_partMessage a0 a1⟩
  | nakMessage a0 => exact ⟨_, exec_nakMessage a0⟩
  | rescanMessage => exact ⟨_, exec_rescanMessage⟩
  | windowMessage a0 a1 => exact ⟨_, exec_windowMessage a0 a1⟩
  | commitMessage => exact ⟨_, exec_commitMessage⟩
  | abandonMessage a0 => exact ⟨_, exec_abandonMessage a0⟩
  | absentMessage a0 a1 => exact ⟨_, exec_absentMessage a0 a1⟩
  | nakWaitExpiry a0 => exact ⟨_, exec_nakWaitExpiry a0⟩
  | ridgeTimeout a0 => exact ⟨_, exec_ridgeTimeout a0⟩
  | rstNAssert => exact ⟨_, exec_rstNAssert⟩
  | rstNDeassert a0 => exact ⟨_, exec_rstNDeassert a0⟩
  | sramInitDone => exact ⟨_, exec_sramInitDone⟩
  | pgCmpFall => exact ⟨_, exec_pgCmpFall⟩
  | pgCmpRise => exact ⟨_, exec_pgCmpRise⟩
  | pgBaseFall a0 => exact ⟨_, exec_pgBaseFall a0⟩
  | pgMtrFall => cases h
  | pgMtrRise => cases h
  | testModeRise => cases h
  | dawnWindow a0 => exact ⟨_, exec_dawnWindow a0⟩
  | dawnStrapExpiry => exact ⟨_, exec_dawnStrapExpiry⟩
  | pllLock => exact ⟨_, exec_pllLock⟩
  | monitorTrip a0 => exact ⟨_, exec_monitorTrip a0⟩
  | dividerRampStep => exact ⟨_, exec_dividerRampStep⟩
  | rampSlotEnd => exact ⟨_, exec_rampSlotEnd⟩
  | thermalEval a0 a1 a2 a3 => exact ⟨_, exec_thermalEval a0 a1 a2 a3⟩
  | sealKeyByte a0 a1 => cases h
  | intent a0 => cases h
  | confirmStrobe a0 => cases h
  | strobeCancel a0 => cases h
  | discard a0 => cases h
  | openDrop a0 => cases h
  | stepRows a0 => cases h
  | stepEnd a0 a1 => cases h
  | idle a0 a1 => cases h
  | countStrobe a0 => cases h
  | clockStrobe a0 => cases h
  | recMaxExpiry => cases h
  | cairnRecord => cases h
  | cairnRecordEnd => cases h
  | mcSyncRiseInWord => exact ⟨_, exec_mcSyncRiseInWord⟩
  | pgBaseRise a0 => exact ⟨_, exec_pgBaseRise a0⟩
  | refclkFirstEdge => exact ⟨_, exec_refclkFirstEdge⟩

/-- Every command of the island has its effect in every state. -/
theorem exec_island (c : Instr) (h : Claims.ofIsland c = true) : ∃ f : State → State, ∀ s, exec c s = .next (f s) := by
  cases c with
  | registerWrite a0 a1 a2 => cases h
  | latchingRead a0 => cases h
  | tableWindowWrite a0 a1 a2 => cases h
  | launchPush a0 a1 => cases h
  | meridianWord a0 => cases h
  | launch a0 a1 => cases h
  | batchForm => cases h
  | guardCheckBegin => cases h
  | guardPoll => cases h
  | guardTimeout a0 => cases h
  | memReadResponse a0 a1 a2 a3 a4 => cases h
  | memWriteResponse a0 a1 a2 => cases h
  | memTimeout a0 a1 a2 => cases h
  | rowNormalised a0 => cases h
  | adapterRun => cases h
  | tileComplete a0 => cases h
  | deliveryBlock a0 a1 a2 => cases h
  | deliveryFold a0 => cases h
  | passPark => cases h
  | decision a0 => cases h
  | genDraw => cases h
  | requestCommitStart a0 => cases h
  | stateRecordWrite a0 => cases h
  | requestCommitted a0 => cases h
  | doneCounterWrite => cases h
  | stepDone a0 => cases h
  | cmdNone a0 => cases h
  | cmdAdmit a0 => cases h
  | cmdImport a0 => cases h
  | cmdCancel a0 => cases h
  | cmdBlock a0 => cases h
  | cmdUnblock a0 => cases h
  | cmdPause a0 => cases h
  | cmdChunk a0 => cases h
  | cmdExport a0 => cases h
  | cmdRelease a0 => cases h
  | cmdClear a0 => cases h
  | spillCancel a0 => cases h
  | spillBlock a0 => cases h
  | spillUnblock a0 => cases h
  | resume a0 => cases h
  | spillRelease a0 => cases h
  | ttlExpiry a0 => cases h
  | transferDone a0 => cases h
  | grant a0 a1 a2 => cases h
  | faultClear a0 a1 a2 => cases h
  | tenantReset a0 a1 a2 => cases h
  | progSwitch a0 a1 => cases h
  | freqSwitch a0 a1 => cases h
  | sfuTableCheckDone a0 => cases h
  | maskSwitch a0 a1 => cases h
  | autoSwitch a0 a1 => cases h
  | biasSwitch a0 a1 => cases h
  | penSwitch a0 a1 => cases h
  | selTableCheckDone => cases h
  | genGo a0 a1 => cases h
  | switch a0 a1 => cases h
  | rollback a0 a1 => cases h
  | cfgCheckDone => cases h
  | confirm a0 a1 => cases h
  | loadGo a0 a1 => cases h
  | loadBeat => cases h
  | repairApply a0 a1 => cases h
  | repairApplyDone => cases h
  | corrClear a0 a1 => cases h
  | stateReqRun a0 a1 => cases h
  | stateReqDrain a0 a1 => cases h
  | stateReqRetain a0 a1 => cases h
  | stateReqOff a0 a1 => cases h
  | cmpIsolated => cases h
  | forceFault a0 a1 => cases h
  | blockSoftReset a0 a1 => cases h
  | resetComplete => cases h
  | pageSoftReset a0 a1 a2 => cases h
  | gateRequest a0 a1 a2 => cases h
  | wakeRequest a0 a1 a2 => cases h
  | gateEffect a0 => cases h
  | wakeDone a0 => cases h
  | usePllSet a0 a1 => cases h
  | haltClear a0 a1 => cases h
  | xltRetry a0 a1 => cases h
  | xltAbort a0 a1 => cases h
  | fqPop a0 a1 => cases h
  | invalGo a0 a1 => cases h
  | invalDone => cases h
  | ridgeFrameRx a0 a1 a2 => cases h
  | batchMessage a0 => cases h
  | pullMessage => cases h
  | partMessage a0 a1 => cases h
  | nakMessage a0 => cases h
  | rescanMessage => cases h
  | windowMessage a0 a1 => cases h
  | commitMessage => cases h
  | abandonMessage a0 => cases h
  | absentMessage a0 a1 => cases h
  | nakWaitExpiry a0 => cases h
  | ridgeTimeout a0 => cases h
  | rstNAssert => cases h
  | rstNDeassert a0 => cases h
  | sramInitDone => cases h
  | pgCmpFall => cases h
  | pgCmpRise => cases h
  | pgBaseFall a0 => cases h
  | pgMtrFall => exact ⟨_, exec_pgMtrFall⟩
  | pgMtrRise => exact ⟨_, exec_pgMtrRise⟩
  | testModeRise => exact ⟨_, exec_testModeRise⟩
  | dawnWindow a0 => cases h
  | dawnStrapExpiry => cases h
  | pllLock => cases h
  | monitorTrip a0 => cases h
  | dividerRampStep => cases h
  | rampSlotEnd => cases h
  | thermalEval a0 a1 a2 a3 => cases h
  | sealKeyByte a0 a1 => exact ⟨_, exec_sealKeyByte a0 a1⟩
  | intent a0 => exact ⟨_, exec_intent a0⟩
  | confirmStrobe a0 => exact ⟨_, exec_confirmStrobe a0⟩
  | strobeCancel a0 => exact ⟨_, exec_strobeCancel a0⟩
  | discard a0 => exact ⟨_, exec_discard a0⟩
  | openDrop a0 => exact ⟨_, exec_openDrop a0⟩
  | stepRows a0 => exact ⟨_, exec_stepRows a0⟩
  | stepEnd a0 a1 => exact ⟨_, exec_stepEnd a0 a1⟩
  | idle a0 a1 => exact ⟨_, exec_idle a0 a1⟩
  | countStrobe a0 => exact ⟨_, exec_countStrobe a0⟩
  | clockStrobe a0 => exact ⟨_, exec_clockStrobe a0⟩
  | recMaxExpiry => exact ⟨_, exec_recMaxExpiry⟩
  | cairnRecord => exact ⟨_, exec_cairnRecord⟩
  | cairnRecordEnd => exact ⟨_, exec_cairnRecordEnd⟩
  | mcSyncRiseInWord => cases h
  | pgBaseRise a0 => cases h
  | refclkFirstEdge => cases h

/-- A write accepted by a page register. -/
theorem portWrite_reg {a : Nat} {w : Word} {p : BitVec 4} {b : Block} {g : Page} {off : Nat}
    (hr : b.pwr.rstLow = false) (ht : target a true (!wparOk w p) b = .reg g off) :
    portWrite a w p b = respond 0 0 (regWrite g off w b) := by simp [portWrite, hr, ht]

/-- A write accepted by a table window. -/
theorem portWrite_win {a : Nat} {w : Word} {p : BitVec 4} {b : Block} {g : Win} {off : Nat}
    (hr : b.pwr.rstLow = false) (ht : target a true (!wparOk w p) b = .win g off) :
    portWrite a w p b = respond 0 0 (winWrite g off w b) := by simp [portWrite, hr, ht]

/-- A request answered HOLD has no effect. -/
theorem portWrite_hold {a : Nat} {w : Word} {p : BitVec 4} {b : Block}
    (hr : b.pwr.rstLow = false) (ht : target a true (!wparOk w p) b = .hold) :
    portWrite a w p b = respond 2 0 b := by simp [portWrite, hr, ht]

/-- A request answered ERROR is recorded by DBG and has no other effect. -/
theorem portWrite_err {a : Nat} {w : Word} {p : BitVec 4} {b : Block} {c : Nat}
    (hr : b.pwr.rstLow = false) (ht : target a true (!wparOk w p) b = .err c) :
    portWrite a w p b = respond 1 0 (dbgRecord a true c b) := by simp [portWrite, hr, ht]

/-- Where a write to an open, ungated page lands. -/
theorem target_page {a : Nat} {b : Block} {g : Page} (hf : frontOnly b = false) (ha : a % 4 = 0) (hl : a < 0x500000)
    (hp : pageAt (a / 0x1000) = some g) (hg : gatedOut b g = false) :
    target a true false b = .reg g (a % 0x1000) := by simp [target, hf, ha, hl, hp, targetPage, hg]

/-- A held frame found with bad parity leaves the receive buffer and counts; nothing else changes (R376). -/
theorem rxBad_frame (k : Nat) (b : Block) : rxBad k b = { b with
    rdg := { b.rdg with rx := (rxBad k b).rdg.rx }, reg := { b.reg with counts := (rxBad k b).reg.counts } } := by
  unfold rxBad
  split <;> rfl

/-- Without a HALT_CLEAR a boundary's first part does nothing (R340). -/
theorem haltBoundary_quiet {b : Block} (m : Measure) (h : b.rdg.clearPend = false) : haltBoundary m b = b := by
  simp [haltBoundary, h]

/-- A full receive buffer takes no frame and counts none (R47). -/
theorem frameRx_full {b : Block} (bs : List Byte) (wire : RxWire) (m : Measure) (h : rxFull b = true) :
    frameRx bs wire m b = b := by simp [frameRx, h]

/-- A stopped or unfinished state record leaves REQUEST_COMMITTED without effect: only one that has landed goes on (R86). -/
theorem committed_waits {b : Block} {entry i : Nat} {c : Ctx} {q : BReq} {p : PReq} {pl : Plan}
    (h : committing b entry = some (i, c, q, p, pl)) (hs : p.stage ≠ .landed) : committed entry b = b := by
  simp [committed, h, hs]

end Sys2Proof.Laws
end

