-- ==== Sys2Proof/Laws/Meter.lean ====
section
/-! SUPPORT. The meter island: what a strobe and a byte of a load keep (`MeterInv`), and that no counter falls. -/

namespace Sys2Proof.Laws

open Sys2Proof.Machine Sys2Proof.Claims

theorem sat64_lt (n : Nat) : sat64 n < 2 ^ 64 := by unfold sat64; omega
theorem sat32_lt (n : Nat) : sat32 n < 2 ^ 32 := by unfold sat32; omega
theorem sat64_ge {a b : Nat} (h : a < 2 ^ 64) : a ≤ sat64 (a + b) := by unfold sat64; omega
theorem sat32_ge {a b : Nat} (h : a < 2 ^ 32) : a ≤ sat32 (a + b) := by unfold sat32; omega

theorem count_tset (t : Table MCount) (n : Nat) (f : MCount → MCount) (k : Nat) :
    tenCount (tmod (fun _ => MCount.zeroed) t n f) k = if k = n then f (tenCount t k) else tenCount t k := by
  unfold tenCount; rw [tget_tmod]
  by_cases hk : k = n
  · subst hk; simp
  · simp [hk]

theorem countLe_refl (m : MCount) : CountLe m m := ⟨Nat.le_refl _, Nat.le_refl _, Nat.le_refl _, Nat.le_refl _, Nat.le_refl _, Nat.le_refl _⟩
theorem countLe_trans {a b c : MCount} (h : CountLe a b) (k : CountLe b c) : CountLe a c :=
  ⟨Nat.le_trans h.1 k.1, Nat.le_trans h.2.1 k.2.1, Nat.le_trans h.2.2.1 k.2.2.1, Nat.le_trans h.2.2.2.1 k.2.2.2.1, Nat.le_trans h.2.2.2.2.1 k.2.2.2.2.1, Nat.le_trans h.2.2.2.2.2 k.2.2.2.2.2⟩

/-- counters grow -/
def Grows (i j : Island) : Prop :=
  (∀ n, CountLe (tenCount i.tens n) (tenCount j.tens n)) ∧
    i.ovhNj ≤ j.ovhNj ∧ i.steps ≤ j.steps ∧ i.strobeErr ≤ j.strobeErr ∧ i.monTrips ≤ j.monTrips ∧ i.holds ≤ j.holds

theorem grows_refl (i : Island) : Grows i i := ⟨fun _ => countLe_refl _, Nat.le_refl _, Nat.le_refl _, Nat.le_refl _, Nat.le_refl _, Nat.le_refl _⟩
theorem grows_trans {a b c : Island} (h : Grows a b) (k : Grows b c) : Grows a c :=
  ⟨fun n => countLe_trans (h.1 n) (k.1 n), Nat.le_trans h.2.1 k.2.1, Nat.le_trans h.2.2.1 k.2.2.1, Nat.le_trans h.2.2.2.1 k.2.2.2.1, Nat.le_trans h.2.2.2.2.1 k.2.2.2.2.1, Nat.le_trans h.2.2.2.2.2 k.2.2.2.2.2⟩

/-- the part of the invariant a powered island's strobes touch -/
def Good (i j : Island) : Prop := MeterInv j ∧ j.on = true ∧ Grows i j

theorem good_mod {i : Island} (hi : MeterInv i) (ho : i.on = true) (n : Nat) (f : MCount → MCount)
    (hf : ∀ m, CountOk m → CountOk (f m) ∧ CountLe m (f m)) : Good i (modTen n f i) := by
  obtain ⟨h1, h2, h3, h4, h5, h6, h7, h8, h9, h10, h11⟩ := hi
  have hc := count_tset i.tens n f
  refine ⟨⟨twf_tmod _ h1 _ _, h2, fun k => ?_, h4, h5, h6, h7, h8, h9, h10, ?_⟩, ho, fun k => ?_, Nat.le_refl _, Nat.le_refl _, Nat.le_refl _, Nat.le_refl _, Nat.le_refl _⟩
  · show CountOk (tenCount (tmod _ i.tens n f) k)
    rw [hc]; split
    · exact (hf _ (h3 k)).1
    · exact h3 k
  · intro h; rw [show (modTen n f i).on = i.on from rfl, ho] at h; cases h
  · show CountLe _ (tenCount (tmod _ i.tens n f) k)
    rw [hc]; split
    · exact (hf _ (h3 k)).2
    · exact countLe_refl _

theorem good_trans {i j k : Island} (h : Good i j) (g : Good j k) : Good i k := ⟨g.1, g.2.1, grows_trans h.2.2 g.2.2⟩
theorem good_refl {i : Island} (hi : MeterInv i) (ho : i.on = true) : Good i i := ⟨hi, ho, grows_refl i⟩

theorem good_fold {α : Type} (f : Island → α → Island) (hf : ∀ i a, MeterInv i → i.on = true → Good i (f i a)) (l : List α) {i : Island}
    (hi : MeterInv i) (ho : i.on = true) : Good i (l.foldl f i) := by
  induction l generalizing i with
  | nil => exact good_refl hi ho
  | cons a l ih => exact good_trans (hf i a hi ho) (ih (hf i a hi ho).1 (hf i a hi ho).2.1)

theorem good_dropOpen {i : Island} (hi : MeterInv i) (ho : i.on = true) : Good i (dropOpen i) := by
  unfold dropOpen
  refine good_fold _ (fun i n hi ho => good_mod hi ho n openCut ?_) _ hi ho
  intro m ⟨a, b, c, d, e, f⟩
  exact ⟨⟨a, b, c, d, e, sat64_lt _⟩, Nat.le_refl _, Nat.le_refl _, Nat.le_refl _, Nat.le_refl _, Nat.le_refl _, sat64_ge f⟩

theorem good_addNj {i : Island} (hi : MeterInv i) (ho : i.on = true) (n e : Nat) : Good i (addNj n e i) := by
  refine good_mod hi ho n _ ?_
  intro m ⟨a, b, c, d, h, f⟩
  exact ⟨⟨a, b, c, d, sat64_lt _, f⟩, Nat.le_refl _, Nat.le_refl _, Nat.le_refl _, Nat.le_refl _, sat64_ge h, Nat.le_refl _⟩

/-- fields outside tens and counters may change while on -/
theorem good_upd {i : Island} (hi : MeterInv i) (ho : i.on = true) (j : Island) (h1 : j.tens = i.tens) (h2 : twf (fun _ => 0) j.rowTab = true)
    (h3 : i.ovhNj ≤ j.ovhNj ∧ j.ovhNj < 2 ^ 64) (h4 : i.steps ≤ j.steps ∧ j.steps < 2 ^ 64) (h5 : i.strobeErr ≤ j.strobeErr ∧ j.strobeErr < 2 ^ 32)
    (h6 : i.monTrips ≤ j.monTrips ∧ j.monTrips < 2 ^ 32) (h7 : i.holds ≤ j.holds ∧ j.holds < 2 ^ 32) (h8 : j.on = true)
    (h9 : if j.sk = .sealed then j.key.length = 16 else j.key = []) (h10 : j.sk ≠ .loading → j.load = []) : Good i j := by
  obtain ⟨g1, g2, g3, g4, g5, g6, g7, g8, g9, g10, g11⟩ := hi
  refine ⟨⟨by rw [h1]; exact g1, h2, fun n => by rw [h1]; exact g3 n, h3.2, h4.2, h5.2, h6.2, h7.2, h9, h10, ?_⟩, h8, fun n => by rw [h1]; exact countLe_refl _, h3.1, h4.1, h5.1, h6.1, h7.1⟩
  intro h; rw [h8] at h; cases h

theorem good_attr {i : Island} (hi : MeterInv i) (ho : i.on = true) (e : Nat) (a : Bool) : Good i (attribute_ e a i) := by
  unfold attribute_; simp only
  split
  · obtain ⟨g1, g2, g3, g4, g5, g6, g7, g8, g9, g10, g11⟩ := id hi
    exact good_upd hi ho _ rfl rfl ⟨sat64_ge g4, sat64_lt _⟩ ⟨Nat.le_refl _, g5⟩ ⟨Nat.le_refl _, g6⟩ ⟨Nat.le_refl _, g7⟩ ⟨Nat.le_refl _, g8⟩ ho g9 g10
  · generalize hj : i.rowTab.foldl _ i = j
    have hg : Good i j := by
      rw [← hj]; exact good_fold _ (fun i r hi ho => good_addNj hi ho _ _) _ hi ho
    obtain ⟨g1, g2, g3, g4, g5, g6, g7, g8, g9, g10, g11⟩ := id hg.1
    have hs : i.steps ≤ j.steps := hg.2.2.2.2.1
    have hjs : j.steps = i.steps := by
      rw [← hj]
      have : ∀ (l : List (Nat × Nat)) (k : Island) (f : Nat → Nat), (l.foldl (fun j r => addNj r.1 (f r.2) j) k).steps = k.steps := by
        intro l; induction l with
        | nil => intro _ _; rfl
        | cons x l ih => intro k f; simp only [List.foldl_cons]; rw [ih]; rfl
      exact this i.rowTab i (fun n => e * n / (i.rowTab.map (·.2)).sum)
    refine good_trans hg (good_upd hg.1 hg.2.1 _ rfl rfl ⟨sat64_ge g4, sat64_lt _⟩ ⟨?_, sat64_lt _⟩ ⟨Nat.le_refl _, g6⟩ ⟨Nat.le_refl _, g7⟩ ⟨Nat.le_refl _, g8⟩ hg.2.1 g9 g10)
    show j.steps ≤ sat64 (i.steps + 1)
    rw [hjs]; exact sat64_ge (by rw [← hjs]; exact g5)

theorem good_act {i : Island} (hi : MeterInv i) (ho : i.on = true) (r : Rails) (e : Strobe) : Good i (strobeAct r e i) := by
  obtain ⟨g1, g2, g3, g4, g5, g6, g7, g8, g9, g10, g11⟩ := id hi
  have hsame : ∀ j : Island, j.tens = i.tens → twf (fun _ => 0) j.rowTab = true → j.ovhNj = i.ovhNj → j.steps = i.steps → j.strobeErr = i.strobeErr → j.monTrips = i.monTrips → j.holds = i.holds → j.on = i.on → j.sk = i.sk → j.key = i.key → j.load = i.load → Good i j := by
    intro j e1 e2 e3 e4 e5 e6 e7 e8 e9 e10 e11
    exact good_upd hi ho j e1 e2 ⟨by omega, by omega⟩ ⟨by omega, by omega⟩ ⟨by omega, by omega⟩ ⟨by omega, by omega⟩ ⟨by omega, by omega⟩ (e8.trans ho) (by rw [e9, e10]; exact g9) (by rw [e9, e11]; exact g10)
  cases e with
  | intent t a b c d =>
    exact good_mod hi ho t _ fun m h => ⟨h, countLe_refl _⟩
  | confirm t a b c d =>
    refine good_mod hi ho t _ fun m h => ?_
    obtain ⟨k1, k2, k3, k4, k5, k6⟩ := h
    exact ⟨⟨sat64_lt _, sat64_lt _, sat64_lt _, sat64_lt _, k5, k6⟩, sat64_ge k1, sat64_ge k2, sat64_ge k3, sat64_ge k4, Nat.le_refl _, Nat.le_refl _⟩
  | cancel t a b c d => exact good_mod hi ho t _ fun m h => ⟨h, countLe_refl _⟩
  | discard t n =>
    refine good_mod hi ho t _ fun m h => ?_
    obtain ⟨k1, k2, k3, k4, k5, k6⟩ := h
    exact ⟨⟨k1, sat64_lt _, k3, k4, k5, k6⟩, Nat.le_refl _, sat64_ge k2, Nat.le_refl _, Nat.le_refl _, Nat.le_refl _, Nat.le_refl _⟩
  | openDrop =>
    have h := good_dropOpen hi ho
    obtain ⟨q1, q2, q3, q4, q5, q6, q7, q8, q9, q10, q11⟩ := id h.1
    exact good_trans h (good_upd h.1 h.2.1 _ rfl q2 ⟨Nat.le_refl _, q4⟩ ⟨Nat.le_refl _, q5⟩ ⟨Nat.le_refl _, q6⟩ ⟨Nat.le_refl _, q7⟩ ⟨Nat.le_refl _, q8⟩ h.2.1 q9 q10)
  | rstDrop =>
    have h := good_dropOpen hi ho
    obtain ⟨q1, q2, q3, q4, q5, q6, q7, q8, q9, q10, q11⟩ := id h.1
    exact good_trans h (good_upd h.1 h.2.1 _ rfl q2 ⟨Nat.le_refl _, q4⟩ ⟨Nat.le_refl _, q5⟩ ⟨Nat.le_refl _, q6⟩ ⟨Nat.le_refl _, q7⟩ ⟨Nat.le_refl _, q8⟩ h.2.1 q9 q10)
  | stepRows t n => exact hsame { i with rowTab := tmod (fun _ => 0) i.rowTab t fun k => k + n } rfl (show twf (fun _ => 0) (tmod (fun _ => 0) i.rowTab t fun k => k + n) = true from twf_tmod (fun _ => 0) g2 t (fun k => k + n)) rfl rfl rfl rfl rfl rfl rfl rfl rfl
  | stepEnd k a => exact good_attr hi ho _ _
  | idle => exact good_upd hi ho _ rfl g2 ⟨sat64_ge g4, sat64_lt _⟩ ⟨Nat.le_refl _, g5⟩ ⟨Nat.le_refl _, g6⟩ ⟨Nat.le_refl _, g7⟩ ⟨Nat.le_refl _, g8⟩ ho g9 g10
  | count c p => exact hsame _ rfl g2 rfl rfl rfl rfl rfl rfl rfl rfl rfl
  | clock h =>
    cases h
    · exact good_upd hi ho _ rfl g2 ⟨Nat.le_refl _, g4⟩ ⟨Nat.le_refl _, g5⟩ ⟨Nat.le_refl _, g6⟩ ⟨sat32_ge g7, sat32_lt _⟩ ⟨Nat.le_refl _, g8⟩ ho g9 g10
    · exact good_upd hi ho _ rfl g2 ⟨Nat.le_refl _, g4⟩ ⟨Nat.le_refl _, g5⟩ ⟨Nat.le_refl _, g6⟩ ⟨Nat.le_refl _, g7⟩ ⟨sat32_ge g8, sat32_lt _⟩ ho g9 g10

/-- a powered or unpowered island under a strobe -/
theorem strobeIn_ok {i : Island} (hi : MeterInv i) (r : Rails) (b : Bool) (e : Strobe) : MeterInv (strobeIn r b e i) ∧ Grows i (strobeIn r b e i) := by
  unfold strobeIn
  by_cases ho : i.on = true
  case neg => rw [if_pos (by simpa using ho)]; exact ⟨hi, grows_refl _⟩
  · rw [if_neg (by simp [ho])]
    obtain ⟨g1, g2, g3, g4, g5, g6, g7, g8, g9, g10, g11⟩ := id hi
    split
    · have := good_upd hi ho { i with strobeErr := sat32 (i.strobeErr + 1) } rfl g2 ⟨Nat.le_refl _, g4⟩ ⟨Nat.le_refl _, g5⟩ ⟨sat32_ge g6, sat32_lt _⟩ ⟨Nat.le_refl _, g7⟩ ⟨Nat.le_refl _, g8⟩ ho g9 g10
      exact ⟨this.1, this.2.2⟩
    · have h := good_act hi ho r e
      obtain ⟨q1, q2, q3, q4, q5, q6, q7, q8, q9, q10, q11⟩ := id h.1
      have := good_trans h (good_upd h.1 h.2.1 { strobeAct r e i with preseal := (strobeAct r e i).preseal || (counts e && !i.wasSealed) } rfl q2 ⟨Nat.le_refl _, q4⟩ ⟨Nat.le_refl _, q5⟩ ⟨Nat.le_refl _, q6⟩ ⟨Nat.le_refl _, q7⟩ ⟨Nat.le_refl _, q8⟩ h.2.1 q9 q10)
      exact ⟨this.1, this.2.2⟩

theorem receive_isl (ch : Nat) (p : Strobe → Bool) (r : Rails) (b : Bool) (s : State) (hi : MeterInv s.isl) :
    MeterInv (receive ch p r b s).isl ∧ Grows s.isl (receive ch p r b s).isl := by
  unfold receive; split
  · exact ⟨hi, grows_refl _⟩
  · exact strobeIn_ok hi _ _ _

theorem keyByte_ok {i : Island} (hi : MeterInv i) (b : Byte) (l : Bool) : MeterInv (keyByte b l i) ∧ Grows i (keyByte b l i) := by
  unfold keyByte
  split
  · exact ⟨hi, grows_refl _⟩
  · rename_i hc
    have ho : i.on = true := by
      cases h : i.on
      · simp [h] at hc
      · rfl
    have hk : i.sk ≠ .sealed ∧ i.sk ≠ .bad := by
      constructor <;> intro h <;> simp [h] at hc
    obtain ⟨g1, g2, g3, g4, g5, g6, g7, g8, g9, g10, g11⟩ := id hi
    have hu : ∀ j : Island, j.tens = i.tens → j.rowTab = i.rowTab → j.ovhNj = i.ovhNj → j.steps = i.steps → j.strobeErr = i.strobeErr → j.monTrips = i.monTrips → j.holds = i.holds → j.on = i.on →
        (if j.sk = .sealed then j.key.length = 16 else j.key = []) → (j.sk ≠ .loading → j.load = []) → MeterInv j ∧ Grows i j := by
      intro j e1 e2 e3 e4 e5 e6 e7 e8 e9 e10
      have := good_upd hi ho j e1 (by rw [e2]; exact g2) ⟨by omega, by omega⟩ ⟨by omega, by omega⟩ ⟨by omega, by omega⟩ ⟨by omega, by omega⟩ ⟨by omega, by omega⟩ (e8.trans ho) e9 e10
      exact ⟨this.1, this.2.2⟩
    rw [if_neg hk.1] at g9
    simp only
    split
    · unfold loadEnd; simp only
      split
      · exact hu _ rfl rfl rfl rfl rfl rfl rfl rfl (by simp) (by simp)
      · rename_i hl
        split
        · refine hu _ rfl rfl rfl rfl rfl rfl rfl rfl ?_ (by simp)
          have hl' : ((i.load ++ [b]).take 81).length = 80 := by omega
          simp only [if_true, List.length_take]; simp only [List.length_take] at hl'; omega
        · exact hu _ rfl rfl rfl rfl rfl rfl rfl rfl (by simp) (by simp)
    · exact hu _ rfl rfl rfl rfl rfl rfl rfl rfl (by simp [g9]) (by simp)

theorem fresh_inv : MeterInv Island.fresh := by
  refine ⟨rfl, rfl, fun n => ?_, by decide, by decide, by decide, by decide, by decide, rfl, fun _ => rfl, by simp [Island.fresh]⟩
  show CountOk MCount.zeroed
  refine ⟨?_, ?_, ?_, ?_, ?_, ?_⟩ <;> decide
theorem off_inv : MeterInv { Island.fresh with on := false } := by
  refine ⟨rfl, rfl, fun n => ?_, by decide, by decide, by decide, by decide, by decide, rfl, fun _ => rfl, fun _ => rfl⟩
  show CountOk MCount.zeroed
  refine ⟨?_, ?_, ?_, ?_, ?_, ?_⟩ <;> decide

theorem inv_of {i j : Island} (hi : MeterInv i) (e1 : j.tens = i.tens) (e2 : j.rowTab = i.rowTab) (e3 : j.ovhNj = i.ovhNj) (e4 : j.steps = i.steps) (e5 : j.strobeErr = i.strobeErr) (e6 : j.monTrips = i.monTrips) (e7 : j.holds = i.holds)
    (e9 : if j.sk = .sealed then j.key.length = 16 else j.key = []) (e10 : j.sk ≠ .loading → j.load = []) (e11 : j.on = false → j = { Island.fresh with on := false }) : MeterInv j ∧ Grows i j := by
  obtain ⟨g1, g2, g3, g4, g5, g6, g7, g8, g9, g10, g11⟩ := hi
  exact ⟨⟨by rw [e1]; exact g1, by rw [e2]; exact g2, fun n => by rw [e1]; exact g3 n, by omega, by omega, by omega, by omega, by omega, e9, e10, e11⟩, fun n => by rw [e1]; exact countLe_refl _, by omega, by omega, by omega, by omega, by omega⟩

end Sys2Proof.Laws
end

