-- ==== Sys2Proof/Laws/Port.lean ====
section
/-! SUPPORT. The register port: what a command that writes one register does, once for every page. -/

namespace Sys2Proof.Laws

open Machine Claims

/-- A port command accepted by a page has that register's effect and an OKAY. -/
theorem port_reg {a : Nat} {d : Word} {p : BitVec 4} {s : State} {g : Page} (off : Nat) (ha : a % 4 = 0)
    (hl : a < 0x500000) (hp : pageAt (a / 0x1000) = some g) (ho : a % 0x1000 = off) (hA : Accepts s.blk g d p) :
    portCommand a d p s = .next { s with blk := settle (okay (regWrite g off d s.blk)) } := by
  obtain ⟨⟨h1, h2, h3, h4⟩, h5⟩ := hA
  subst ho
  have hb : wparOk d p = true := by simp [wparOk, h5]
  rw [portCommand_next _ _ _ h1, portWrite_reg h2 (by rw [hb]; exact target_page h3 ha hl hp h4)]
  rfl

/-- GATE answers whatever the page's gate (R396). -/
theorem port_gate {a : Nat} {d : Word} {p : BitVec 4} {s : State} {g : Page} (ha : a % 0x1000 = 0x028)
    (hl : a < 0x500000) (hp : pageAt (a / 0x1000) = some g) (hF : FrontOpen s.blk) (h5 : p.toNat = parBits 4 d.toNat) :
    portCommand a d p s = .next { s with blk := settle (okay (regWrite g 0x028 d s.blk)) } := by
  obtain ⟨h1, h2, h3⟩ := hF
  have hb : wparOk d p = true := by simp [wparOk, h5]
  have h4 : a % 4 = 0 := by omega
  rw [portCommand_next _ _ _ h1, portWrite_reg (g := g) (off := 0x028) h2 (by
    simp [hb, target, h3, h4, hl, hp, targetPage, ha])]
  rfl

/-- A port command accepted by a window that no page owns has that window's effect and an OKAY. -/
theorem port_win {a : Nat} {d : Word} {p : BitVec 4} {s : State} {w : Win × Nat} (ha : a % 4 = 0) (hl : 0x500000 ≤ a)
    (hw : winAt (apertureSel s.blk) a = some w) (ho : winOwner w.1 = none) (hW : WindowOpen s.blk)
    (h6 : p.toNat = parBits 4 d.toNat) :
    portCommand a d p s = .next { s with blk := settle (okay (winWrite w.1 w.2 d s.blk)) } := by
  obtain ⟨h1, h2, h3, h4, h5⟩ := hW
  have hb : wparOk d p = true := by simp [wparOk, h6]
  have ht : target a true (!wparOk d p) s.blk = .win w.1 w.2 := by
    simp [target, h3, ha, Nat.not_lt.2 hl, hw, targetWin, h4, h5, ho, hb]
  rw [portCommand_next _ _ _ h1, portWrite_win h2 ht]
  rfl

/-- Page index of a page's register address. -/
theorem page_of (n off : Nat) (h : off < 0x1000) : (n * 0x1000 + off) / 0x1000 = n := by omega

/-- Tenant pages by index. -/
theorem pageAt_ten {n : Nat} (h : n < 1024) : pageAt (0x100 + n) = some (.ten n) := by
  unfold pageAt
  split <;> first
    | (exfalso; omega)
    | (have h1 : ¬ (0x100 + n ≤ 0x13) := by omega
       have h2 : ¬ (0x100 + n ≤ 0x17) := by omega
       have h3 : 0x100 + n ≤ 0x4FF := by omega
       simp [h1, h2, h3, Nat.add_sub_cancel_left])

/-- A page's base address by its index. -/
theorem base_of {i : Nat} {g : Page} (h : pageAt i = some g) : pageBase g = i * 0x1000 := by
  unfold pageAt at h
  split at h
  case h_16 =>
    split at h
    · rename_i hc; simp only [Bool.and_eq_true, decide_eq_true_eq] at hc
      simp only [Option.some.injEq] at h; subst h; simp only [pageBase]; omega
    · split at h
      · rename_i hc; simp only [Bool.and_eq_true, decide_eq_true_eq] at hc
        simp only [Option.some.injEq] at h; subst h; simp only [pageBase]; omega
      · split at h
        · rename_i hc; simp only [Bool.and_eq_true, decide_eq_true_eq] at hc
          simp only [Option.some.injEq] at h; subst h; simp only [pageBase]; omega
        · cases h
  all_goals (simp only [Option.some.injEq] at h; subst h; rfl)

/-- A command that writes a register of the page at an index. -/
theorem page_port {i : BitVec 12} {d : Word} {p : BitVec 4} {s : State} {g : Page} (off : Nat) (ho : off < 0x1000) (h4 : off % 4 = 0) (hi : i.toNat < 0x500) (hp : pageAt i.toNat = some g)
    (hA : Accepts s.blk g d p) :
    portCommand (i.toNat * 0x1000 + off) d p s = .next { s with blk := settle (okay (regWrite g off d s.blk)) } := by
  refine port_reg off (by omega) (by omega) ?_ (by omega) hA
  rw [show (i.toNat * 0x1000 + off) / 0x1000 = i.toNat by omega]; exact hp

end Sys2Proof.Laws
end

