-- ==== Sys2Proof/Safety.lean ====
section
/-! DEFINITION. What a safe run is: no step of it answers a fault or a refusal. -/

namespace Sys2Proof

/-- `n` steps, or none when one of them stops. -/
def runFor : Nat → Machine.State → Option Machine.State
  | 0, s => some s
  | n + 1, s => match Machine.step s with
    | .next t => runFor n t
    | _ => none

/-- No run from `s` stops. -/
def Safe (s : Machine.State) : Prop := ∀ n, ∃ t, runFor n s = some t

end Sys2Proof
end

