-- ==== Sys2Proof/Tests/Slice0.lean ====
section
/-! SUPPORT. Tests of the model: each check of `wellFormed` refuses an ill-formed term, small checks against
numbers the manual gives or that follow from it by hand, and for every statement with hypotheses a concrete state and
operands that meet them, one per clause. -/

namespace Sys2Proof.Tests

set_option Elab.async false

open Machine Claims

/-! ## Helpers -/

/-- A block out of reset, on the PLL, the SRAM clear ended and the repair map applied. -/
def up : Block :=
  { State.reset.blk with
    sramInit := false
    cfg := { CfgSide.cold with repairDone := true }
    pwr := { PwrSide.cold with
      pinLow := false, rstLow := false, src := .pll, pllLock := true, pllStarted := true, refclkOk := true
      dawnOk := true, judging := true, refSeen := true } }

/-- The machine with this block, a fresh island and no command waiting. -/
def mk (b : Block) : State := ⟨b, Island.fresh, []⟩

/-- The machine with this island. -/
def mkIsl (i : Island) : State := ⟨up, i, []⟩

/-- Byte parity of a word. -/
def par (d : Word) : BitVec 4 := BitVec.ofNat 4 (parBits 4 d.toNat)

/-- The block a command leaves, where it answers a next state. -/
def after (c : Instr) (s : State) : Option State :=
  match exec c s with
  | .next t => some t
  | _ => none

/-- A register as written. -/
def setReg (a : Nat) (d : Word) (b : Block) : Block :=
  { b with reg := { b.reg with written := tset resetVal b.reg.written a d } }

/-- An exchange that has not begun. -/
def ex0 : Exch := ⟨[], [], false, 0, false, 0, [], [], [], false, false, true⟩

/-- An empty batch. -/
def batch0 : Batch := ⟨1, false, [], [], 0, 0, [0, 0, 0, 0], 0, 0⟩

/-- A pass over the empty batch in this phase, on four arrays. -/
def pass (p : Phase) : Ctx :=
  { num := 1, count := 1, refine := false, late := false, overrun := false, unaligned := false, preempt := false
    regs := [], bank := 0, selEp := [0, 0, 0, 0], progEp := 0, freqEp := 0, nArr := 4, rowsWait := [], sharded := false
    batch := batch0, phase := p, order := [], chunk := 0, tileT := 0, tileG := 0, cbNext := 0, cbFold := 0, rows := [], work := []
    halves := [], weights := [], wAsked := [], adapters := [], adpAsked := false, adpAbsent := [], reqs := [], pred := 0, stall := 0
    streak := 0, adpStreak := 0, rebuild := none, rebuilds := 0, parkReq := false, parked := false, parkedByStop := false, everParked := false
    finishTile := false, partialC := false, ex := ex0 }

/-- A block that runs this pass in context 0. -/
def running (c : Ctx) : Block := { up with ctx0 := some c, running := some 0, arrays := [0, 1, 2, 3], nArr := 4 }

/-- A block with its power side changed. -/
def pw (f : PwrSide → PwrSide) : Block := { up with pwr := f up.pwr }

/-- A block whose only memory transfer is this one. -/
def memBlk (x : Xfer) (l : List Access) : Block := { up with mem := { up.mem with xfers := [x], access := l } }

/-- A read of one beat for the load engine. -/
def xfer0 : Xfer :=
  { id := 0, write := false, addr := 0, len := 64, data := [], kind := 6, tenant := none, rights := .system, ctx := none
    purpose := .load, issued := 0, redo := [], ended := 0, got := [], failed := false }

/-- An entry in this state, of tenant 0. -/
def ent (st : EState) : Entry := { Entry.freed with state := st }

/-- The block with entry 5 as given and this CMD word. -/
def entBlk (e : Entry) (cmd : Word) : Block :=
  { up with entries := [(5, e)], host := [(640, cmd)] }

/-- A paged tenant's read that waits with a translation fault. -/
def heldBlk (p : Purpose) : Block :=
  let b := memBlk { xfer0 with tenant := some 0, rights := .tenant 0, purpose := p } []
  { b with mem := { b.mem with xltHeld := [0] }, reg := { b.reg with inForce := [(0x1000A4, 1)] } }

/-- A configuration image of 256 KiB, all zero but for a smallest head, with this CRC word. -/
def image (crc : Word) : Table Word :=
  [(0, 0x43344749), (1, 0x02040001), (2, 4), (3, 1), (4, 0x40000), (15, crc), (16, 8), (17, 1), (35, 1)]

/-- Bytes of a store that lie off its word 15 do not show that word. -/
theorem image_bytes (c d : Word) (first n : Nat) (h : 15 < first ∨ first + n ≤ 15) :
    storeBytes (image c) first n = storeBytes (image d) first n := by
  have hw : ∀ k, k ≠ 15 → tget zeroWord (image c) k = tget zeroWord (image d) k := by
    intro k hk
    simp only [image, tget, if_neg (Ne.symm hk)]
  have hl : ∀ l : List Nat, (∀ i ∈ l, i < n) →
      (l.flatMap fun i => leBytes 4 (tget zeroWord (image c) (first + i)).toNat) =
      l.flatMap fun i => leBytes 4 (tget zeroWord (image d) (first + i)).toNat := by
    intro l hl
    induction l with
    | nil => rfl
    | cons a l ih =>
      have ha := hl a (by simp)
      rw [List.flatMap_cons, List.flatMap_cons, hw _ (by omega), ih fun i hi => hl i (by simp [hi])]
  exact hl _ fun i hi => by simpa [upto] using hi

theorem image_good (c : Word) (h : imageCrc (image c) 0x40000 = c) : imageCheck .x4 (image c) = none := by
  have hc : tclear (image c) (0x40000 / 4) 262144 = image c := rfl
  have hq : tget zeroWord (image c) 15 = c := rfl
  have hw : ∀ k < 144, k ≠ 15 → tget zeroWord (image c) k = tget zeroWord (image 0) k := by
    intro k _ hk
    simp only [image, tget, if_neg (Ne.symm hk)]
  have hm : ∀ m ∈ (8, 0xFFFFFF00#32) :: reservedMasks, maskedByte (image c) m.1 m.2 = maskedByte (image 0) m.1 m.2 := by
    intro m hm
    have : m.1 / 4 < 144 ∧ m.1 / 4 ≠ 15 := by
      revert hm m
      decide
    unfold maskedByte
    rw [hw _ this.1 this.2]
  have hf : ∀ lo hi, (hi ≤ 60 ∨ 60 < lo) → firstByte (image c) lo hi = firstByte (image 0) lo hi := by
    intro lo hi hb
    have : (decide (lo ≤ 4 * 15) && decide (4 * 15 < hi)) = false := by
      rcases hb with hb | hb <;> simp <;> omega
    simp only [firstByte, image, List.find?_cons, this, Bool.false_and]
  have hg : gainBad (image c) 512 = false := by simp [gainBad, image]
  have hs : stopKeys (image c) = [] := rfl
  have hm8 : maskedByte (image c) 8 0xFFFFFF00 = maskedByte (image 0) 8 0xFFFFFF00 := hm (8, 0xFFFFFF00#32) (by simp)
  have hhead : headerBad (image c) = none := by
    have e : headerBad (image c) = headerBad (image 0) := by
      simp only [headerBad, hw 0 (by decide) (by decide), hw 1 (by decide) (by decide),
        hm8, hf 28 60 (by decide)]
    rw [e]
    decide
  have hbad : headBad (image c) = false := by
    have e : 64 * bits (tget zeroWord (image 0) 16) 8 0 = 512 := by decide
    simp only [headBad, hw 16 (by decide) (by decide), hw 17 (by decide) (by decide),
      hw 20 (by decide) (by decide), e, hg]
    decide
  have hgrp : groupBad (image c) = false := by
    simp only [groupBad, hw 32 (by decide) (by decide), hw 17 (by decide) (by decide), hw 34 (by decide) (by decide),
      hw 35 (by decide) (by decide)]
    decide
  have hres : reservedBad (image c) 0x40000 = none := by
    have e : reservedMasks.map (fun m => maskedByte (image c) m.1 m.2) =
        reservedMasks.map fun m => maskedByte (image 0) m.1 m.2 :=
      List.map_congr_left fun m h => hm m (List.mem_cons_of_mem _ h)
    simp only [reservedBad, e, hf 0x54 0x80 (by decide), hf 0x90 0x10000 (by decide), hf 0x40000 0x40000 (by decide), hs, List.map_nil]
    decide
  have hz : (tget zeroWord (image c) 4).toNat = 0x40000 := by rw [hw 4 (by decide) (by decide)]; decide
  have h1 : tget zeroWord (image c) 1 = 0x02040001 := by rw [hw 1 (by decide) (by decide)]; decide
  have h2 : tget zeroWord (image c) 2 = 4 := by rw [hw 2 (by decide) (by decide)]; decide
  have h3 : tget zeroWord (image c) 3 = 1 := by rw [hw 3 (by decide) (by decide)]; decide
  simp only [imageCheck, hhead, h1, h2, h3, hz, hc, h, hq, hbad, hgrp, hs, hres, ne_eq, not_true_eq_false, if_false, List.find?_nil]
  decide

/-- A block whose bank 1 holds these words and is under check. -/
def checkBlk (l : Table Word) : Block :=
  { up with stores := { up.stores with bank1 := l }, cfg := { up.cfg with checking := true } }

/-- A block whose repair map holds these words and is under check. -/
def repBlk (l : Table Word) : Block :=
  { up with stores := { up.stores with repair := l }, cfg := { up.cfg with applying := true, repairDone := false } }

/-- A block with a check of the micro-programs, the frequency tables and one SEL request under way. -/
def tblBlk (l : List Bool) (prog freq : Table Word) : Block :=
  { up with
    epochs := { up.epochs with progCheck := true, freqCheck := true, selChecks := [l] }
    stores := { up.stores with prog := prog, freq := freq } }

/-- A block whose launch queue holds a due entry of count 9 and an older one. -/
def dueBlk : Block :=
  { up with
    count := some 9, launchQ := [⟨8, false, false, some 8⟩, ⟨9, false, false, some 9⟩]
    pwr := { up.pwr with cmpUp := true, fastOn := true }, cfg := { up.cfg with activeValid := true }
    mirror := { up.mirror with sk := .sealed } }

/-- A block that can launch the entry of count 9, on four arrays. -/
def goBlk : Block := { dueBlk with arrays := [0, 1, 2, 3], nArr := 4 }

/-- The block at the boundary of that launch. -/
def atLaunch (b : Block) : Block := missedUp 1 { b with launchQ := [] }

/-- The entry of count 9 launches from this block. -/
def goes (b : Block) : Bool :=
  decide (newestDue b = some ⟨9, false, false, some 9⟩) && canLaunch ⟨9, false, false, some 9⟩ b

/-- The block after the boundary's work on tenants and table. -/
def served (x : Block) : Block :=
  if scansRun (tenantBoundary x) then scan (skipReason x).isNone (tenantBoundary x) else tenantBoundary x

/-- An access of port 1, tag 7 of the load's transfer. -/
def acc0 (w : Bool) : Access :=
  { port := 1, tag := 7, write := w, phys := 0, beats := 1, xfer := 0, off := 0, tries := 0, recvd := [], badPar := none
    badErr := none }

/-- A generation request of entry 5 in a batch, of tenant 0, with zero host words but ring and counter. -/
def breq0 : BReq :=
  { entry := 5, tenant := 0, reqId := 0, host := List.replicate 64 0, dstep := 0, kind := 0, prev := .ready, rows := 1
    chunk := none, refP := 0, refT := 0, late := false }

/-- What its commit writes: these records. -/
def plan0 (l : List (List Byte)) : Plan :=
  { records := l, code := [], toks := [], append := [], runLen := 1, accepted := 0, ds := 0, built := false, status := 1
    stop := false, efault := 0, residual := false, scored := 1, positions := [], gov := Gov.zeroed, remote := false }

/-- Its pass state at this commit stage. -/
def preq0 (st : CStage) (pl : Option Plan) : PReq :=
  { entry := 5, drafts := none, toks := [], dataIn := true, stage := st, plan := pl, intent := false, counterOk := false
    sent := [] }

/-- A pass of that one request. -/
def pass1 (p : Phase) (q : PReq) : Ctx :=
  { pass p with batch := { batch0 with reqs := [breq0] }, reqs := [q] }

/-- A fetched row. -/
def prow (bs : List Byte) : PRow :=
  { fetched := some bs, ready := false, removed := 0, act := [], scales := [], stats := none, adapted := false
    sel := ⟨[], 0, 0, 0, none, []⟩, win := [], dec := none }

/-- A forming boundary with nothing to form. -/
def form0 : FormBase :=
  { step := 9, refine := false, entries := [], host := [], tenants := [], used := [], regs := [], count := 9, parked := false
    penPend := false, penActive := 0, temp := 0, bank := 0, nArr := 4, left := 0, acc := 0, corr := [0x1000, 0x1000, 0x1000, 0x1000]
    corrCnt := [0, 0, 0, 0], warn := 0 }

/-- The block as shard `k` of two. -/
def shardBlk (k : Word) (b : Block) : Block :=
  { b with stores := { b.stores with bank0 := [(32, 0x100 + k)] } }

/-- BF16 infinity, then zeros, for 64 elements. -/
def infRow : List Byte := 0x80 :: 0x7F :: List.replicate 126 0

/-- A pass of 65 padding rows, in row group `g`. -/
def padPass (g : Nat) : Ctx :=
  { pass .tiles with cbNext := 4, order := List.range 65, tileG := g, batch := { batch0 with rows := List.replicate 65 ⟨none, 0, 0, 3, false⟩ } }

/-- A block that runs it over 1,025 columns of 512 elements. -/
def padBlk (g : Nat) : Block :=
  { running (padPass g) with stores := { up.stores with bank0 := [(16, 8), (17, 1025)] } }

/-- A pass of 520 padding rows on the last tile of the first of its two chunks, and a block that runs it. -/
def chunkPass : Ctx := { pass .tiles with cbNext := 4, order := List.range 520, tileT := 1, tileG := 7 }
def chunkBlk : Block := { running chunkPass with stores := { up.stores with bank0 := [(16, 511), (17, 1025)] } }

/-- A beat of the word 1 with its parity, and one whose parity is wrong. -/
def goodBeat : Beat := ⟨1, BitVec.ofNat 64 (parBits 64 1)⟩
def badBeat : Beat := ⟨1, BitVec.ofNat 64 (parBits 64 1 + 1)⟩

/-- A pass with an adapter of 64 rows in, its weights empty, on its `k`th try. -/
def adpPass (k : Nat) : Ctx :=
  { pass .prologue with regs := [(0x100100, 3)], adapters := [(0, 0, some [])], adpStreak := k }

/-- A block that runs it on 64 hidden elements. -/
def adpBlk (k : Nat) : Block := { running (adpPass k) with stores := { up.stores with bank0 := [(16, 1)] } }

/-- A decided pass of one generation row that TOP_P = 1 lets walk past its one candidate of five, in round `k`. -/
def openPass (k : Nat) : Ctx :=
  { pass .decide with
    batch := { batch0 with
      reqs := [{ breq0 with host := ((List.replicate 64 0).set 1 0x20000).set 8 0x3F800000 |>.set 10 1 }]
      rows := [⟨some 5, 0, 0, 0, false⟩] }
    reqs := [preq0 .idle none]
    rows := [{ prow [] with sel := ⟨[(0, 0)], 5, 0, 0x40A00000, none, [(0, 0), (1, 0), (2, 0), (3, 0), (4, 0)]⟩ }]
    ex := { ex0 with round := k, rescan := if k = 0 then [] else [(0, 0, 0, negInf)] } }

/-- The conditions of a command of entry 5, with sequence 1 and code `k`. -/
def cmdOn (e : Entry) (k : Nat) (b : Block) : Bool :=
  decide (Live b) && !b.fault && scansRun b && decide (entryAt b 5 = e) && cmdPending b 5 && !cmdHeld b 5 &&
    decide (hCmd (hostWords b 5) = k)

/-- Entry 5 in state `st` with CMD code `k`. -/
def cmdBlk (st : EState) (k : Nat) : Block := entBlk (ent st) (BitVec.ofNat 32 (16 + k))

/-- The block with values in force. -/
def inForce (l : Table Word) (b : Block) : Block := { b with reg := { b.reg with inForce := l } }

/-- Entry 5 FREE with CMD code `k`, its second word `w` and HIST_LEN 2, under an active tenant 0 that owns counters
0 to 9. -/
def admBlk (k : Nat) (w : Word) : Block :=
  inForce [(0xFC0010, 0), (0xFC0014, 10)] { up with
    entries := [], host := [(640, BitVec.ofNat 32 (16 + k)), (641, w), (656, 0x20000)]
    tenants := [(0, { Tenant.cold with state := .active })] }

/-- Entry 5 READY with CHUNK of `n` positions posted. -/
def postBlk (n : Nat) : Block := { up with entries := [(5, ent .ready)], host := [(640, 0x17), (675, BitVec.ofNat 32 n)] }

/-- The block of R257's checks: the command acknowledged. -/
def admN (b : Block) : Block :=
  setEntry 5 { entryAt b 5 with ackSeq := hCmdSeq (hostWords b 5), overtaken := false } b

/-- A directory entry in this state, of tenant 0. -/
def spl (st : EState) : DirEntry := { DirEntry.freed with state := st }

/-- The conditions of a command of directory entry 3 with code `k`. -/
def dirOn (st : EState) (k : Nat) : Bool :=
  let b := inForce [(0x0060B4, 16)] { up with dir := [(3, spl st)], dirHost := [(3, BitVec.ofNat 32 (16 + k))] }
  decide (Live b) && !b.fault && scansRun b && decide (dirAt b 3 = spl st) && decide (3 < spillN b) && dirPending b 3 &&
    decide (bits (dirCmdWord b 3) 3 0 = k) && !tenDraining b 0

/-- Frame `q` of `n` of message `kind` from shard `src` to shard `dst`, with this CFGE. -/
def frameAt (q n kind src dst step cfge : Nat) (pl : List Byte) : List Byte :=
  withCrc (leBytes 4 (src * 2 ^ 20 + kind * 2 ^ 28) ++ leBytes 6 step ++ leBytes 2 q ++ leBytes 2 n ++
    leBytes 2 pl.length ++ leBytes 2 0 ++ leBytes 1 dst ++ leBytes 1 0 ++ leBytes 4 0 ++ leBytes 4 cfge ++ leBytes 1 1 ++
    leBytes 3 0 ++ pl)

/-- The frame of a one-frame message. -/
def frame (kind src dst step cfge : Nat) (pl : List Byte) : List Byte := frameAt 0 1 kind src dst step cfge pl

/-- A frame that came with the right parity of each byte and no error. -/
def clean (bs : List Byte) : RxWire := ⟨bs.map bytePar, false⟩

/-- A held frame of a one-frame message about step 1. -/
def held (src kind round : Nat) (pl : List Byte) : RxFrame :=
  { src := src, kind := kind, step := 1, round := round, fseq := 0, fcount := 1, any := false, bdig := 0, payload := pl }

/-- Shard `k` of two with a sharded pass of step 1 and these frames held. -/
def rdgBlk (k : Word) (c : Ctx) (l : List RxFrame) : Block :=
  shardBlk k { running c with rdg := { up.rdg with rx := l, newest := some 1, seen := some 1 } }

/-- A sharded pass in this phase with this exchange. -/
def spass (p : Phase) (e : Exch) : Ctx := { pass p with sharded := true, ex := e }

/-- A block whose receive buffer has 16 bytes free. -/
def nearBlk : Block :=
  { up with rdg := { up.rdg with
    rx := List.replicate 16 { held 0 3 0 (List.replicate 4059 0) with fseq := 1, fcount := 2 } } }

/-- A block whose receive buffer is full. -/
def fullBlk : Block :=
  { up with rdg := { up.rdg with
    rx := List.replicate 16 { held 0 3 0 (List.replicate 4060 0) with fseq := 1, fcount := 2 } } }

/-- A fresh island with this channel of strobes. -/
def strobed (l : List Strobe) : State := mk { up with strobes := l }

/-- The bytes of a full load but for the last: a key and a calibration block of the defaults. -/
def load79 : List Byte := ((List.replicate 16 5 ++ withCrc (leBytes 2 1 ++ leBytes 2 1 ++ leBytes 2 64 ++ leBytes 2 0 ++
  leBytes 4 0x40000 ++ leBytes 4 0x40000 ++ leBytes 4 0x40000 ++ leBytes 8 0 ++ List.replicate 32 0)).take 79)

/-- Its last byte. -/
def load80 : Byte := BitVec.ofNat 8 ((crc32 (leBytes 2 1 ++ leBytes 2 1 ++ leBytes 2 64 ++ leBytes 2 0 ++ leBytes 4 0x40000 ++
  leBytes 4 0x40000 ++ leBytes 4 0x40000 ++ leBytes 8 0 ++ List.replicate 32 0)).toNat / 2 ^ 24)

/-- Spec 06, after R175: state 0 of the example's automaton table. -/
def autoStores : Stores :=
  { up.stores with automata := [(0, 1), (2, 2), (4, 4), (22, 0x39)] }

/-- Spec 03: a Vale-S request and the rows of its step. -/
def valeReq (i : Nat) : BReq :=
  { breq0 with entry := i, host := (List.replicate 64 0).set 1 0x20000 |>.set 10 1024 }

/-- Spec 03: 256 of them. -/
def valeBatch : Batch :=
  { batch0 with reqs := (List.range 256).map valeReq, rows := (List.range 256).map fun i => ⟨some i, 0, 0, 0, false⟩ }

/-! ## Ill-formed terms are refused -/

theorem test_wf_window : wellFormed (.tableWindowWrite 0x4FFFFC 0 0) = false := by decide
theorem test_wf_port : wellFormed (.memReadResponse 4 0 [] true 0) = false := by decide
theorem test_wf_tag : wellFormed (.memReadResponse 0 64 [] true 0) = false := by decide
theorem test_wf_beats : wellFormed (.memReadResponse 0 0 (List.replicate 5 ⟨0, 0⟩) true 0) = false := by decide
theorem test_wf_write_port : wellFormed (.memWriteResponse 4 0 0) = false := by decide
theorem test_wf_write_tag : wellFormed (.memWriteResponse 0 32 0) = false := by decide
theorem test_wf_timeout_port : wellFormed (.memTimeout 4 0 false) = false := by decide
theorem test_wf_timeout_tag : wellFormed (.memTimeout 0 64 false) = false := by decide
theorem test_wf_row : wellFormed (.rowNormalised 16384) = false := by decide
theorem test_wf_freeze_count : wellFormed (.deliveryBlock 5 [1, 1, 1, 1, 1] none) = false := by decide
theorem test_wf_freeze_sum : wellFormed (.deliveryBlock 5 [6] none) = false := by decide
theorem test_wf_entry : ([Instr.requestCommitStart 16384, .stateRecordWrite 16384, .requestCommitted 16384, .cmdNone 16384,
    .cmdAdmit 16384, .cmdImport 16384, .cmdCancel 16384, .cmdBlock 16384, .cmdUnblock 16384, .cmdPause 16384,
    .cmdChunk 16384, .cmdExport 16384, .cmdRelease 16384, .cmdClear 16384, .transferDone 16384].all
    fun c => !wellFormed c) = true := by decide
theorem test_wf_dir : ([Instr.spillCancel 16384, .spillBlock 16384, .spillUnblock 16384, .resume 16384,
    .spillRelease 16384, .ttlExpiry 16384].all fun c => !wellFormed c) = true := by decide
theorem test_wf_bit : ([Instr.faultClear 0 0 0, .tenantReset 0 0 0, .progSwitch 2 0, .freqSwitch 1 0, .maskSwitch 14 0,
    .autoSwitch 13 0, .biasSwitch 11 0, .penSwitch 7 0, .genGo 0 0, .switch 30 0, .rollback 29 0, .confirm 27 0,
    .loadGo 23 0, .repairApply 15 0, .corrClear 0 0, .forceFault 1 0, .blockSoftReset 0 0, .usePllSet 0 0,
    .haltClear 0 0, .fqPop 0 0, .invalGo 0x400 0].all fun c => !wellFormed c) = true := by decide
theorem test_wf_state : ([Instr.stateReqRun 2 0, .stateReqDrain 3 0, .stateReqRetain 4 0, .stateReqOff 0 0].all
    fun c => !wellFormed c) = true := by decide
theorem test_wf_page : ([Instr.pageSoftReset 0x500 1 0, .pageSoftReset 0 0 0, .gateRequest 0x500 0 0, .gateRequest 0 1 0,
    .wakeRequest 0x500 1 0, .wakeRequest 0 0 0, .gateEffect 0x500, .wakeDone 0x500].all
    fun c => !wellFormed c) = true := by decide
theorem test_wf_resume : ([Instr.xltRetry 0x400 0, .xltRetry 0xC00 0, .xltAbort 0x400 0, .xltAbort 0x800 0].all
    fun c => !wellFormed c) = true := by decide
theorem test_wf_shard : ([Instr.partMessage 256 ⟨0, 0⟩, .nakMessage 256, .windowMessage 256 ⟨0, 0⟩,
    .absentMessage 256 ⟨0, 0⟩].all fun c => !wellFormed c) = true := by decide

/-! ## The manual's worked examples and check values -/

/-- Spec 15, after R424: the shares of 40,960,937 nJ among tenants 3, 17 and 40, and 2 nJ of overhead. -/
theorem test_attribution_example :
    (after (.stepEnd ⟨9000000, 1500000, 1000000⟩ false) { strobed [.stepEnd 1 true] with isl := { Island.fresh with
      cal := { Calib.unsealed with gainCmp := 0x38000, gainBase := 0x44000, gainSram := 0x31600 }
      rowTab := [(3, 101), (17, 99), (40, 56)], tens := [(3, { MCount.zeroed with nj := 999700 })] } }).map
      (fun t => (t.isl.tens.map fun x => (x.1, x.2.nj), t.isl.ovhNj)) =
    some ([(3, 17160069), (17, 15840362), (40, 8960204)], 2) := by decide +kernel

/-- Spec 06, after R175: rows 3 and 7 of the example, the allowed set and the position after. -/
theorem test_automaton_example :
    autoSet autoStores 0 0 ⟨0, 2, 2, 0, 0, 2⟩ = 2 ∧
    autoMove autoStores 0 0 ⟨0, 2, 2, 0, 0, 2⟩ (some 1) = ⟨0, 2, 2, 0, 1, 0⟩ ∧
    autoSet autoStores 0 0 ⟨0, 2, 2, 0, 2, 0⟩ = 4 ∧
    autoMove autoStores 0 0 ⟨0, 2, 2, 0, 2, 0⟩ (some 2) = ⟨0, 2, 2, 1, 0, 0⟩ ∧
    autoMove autoStores 0 0 ⟨0, 2, 2, 0, 0, 1⟩ (some 0) = ⟨0, 2, 2, 0, 0, 2⟩ := by decide +kernel

/-- Spec 06: one column through every transform ends at 6.75. -/
theorem test_lane_example :
    (laneScore up.stores ⟨false, 0x40400000, some 0x3F4CCCCD, some ⟨0x3F555555, 0x3F99999A, 0x3E800000, 0x3F000000⟩,
      [(40117, 3)], some [(40117, 0x3FC00000)], none, 0, 0⟩ 40117 0x40C80000 (some 0x40900000)) =
    ⟨0x40D80000, 0, 0⟩ := by decide +kernel

/-- Spec 03, 11 and 12: the published counts of the Vale-S step on an X4, on an X2's two arrays, and in a group of four. -/
theorem test_step_time_example :
    stepPred ⟨[(0x005008, 1)], 6144, 0, 131072, 1, [], 0, 4, false⟩ valeBatch false = 1676816 ∧
    stepPred ⟨[(0x005008, 1)], 6144, 0, 131072, 1, [], 0, 2, false⟩ valeBatch false = 3249680 ∧
    stepPred ⟨[(0x005008, 1)], 6144, 0, 131072, 4, [], 0, 4, false⟩ valeBatch false = 2086980 := by decide +kernel

/-- Spec 05: the noise word of the example under its noise-hook program. -/
theorem test_noise_hook_example :
    noiseHook false (fun k => tget zeroWord [(0, 0x401), (256, 0xBF3172), (512, 0x24000000), (513, 0x44400000),
      (514, 0x1D400000), (515, 0x08854000), (516, 0x44C80000), (517, 0x090D4000), (518, 0xFC100000)] k) 0x4CCD5A3F =
    0xBE3E1000 := by decide +kernel

/-- Spec 05, after R151: iterations 0, 22 and 23 of the cosine schedule of 4,096 positions. -/
theorem test_schedule_example :
    scheduleK false zeroWord 4096 24 0 4096 = 9 ∧ scheduleK false zeroWord 4096 24 22 534 = 267 ∧
    scheduleK false zeroWord 4096 24 23 267 = 267 := by decide +kernel

/-- Spec 04, after R103: the row of 3.0 becomes 0x38 in FP8 E4M3. -/
theorem test_quant_example : (quant (actFmt 0) [0x3F7FFFFF, 0x3F800000]).1 = [0x38, 0x38] := by decide +kernel

/-- Spec 07, after R201: the cut of the example is 3, and 4 without min-p. -/
theorem test_cut_example :
    let cs : List (Word × Nat) := [(0x3FC00000, 812), (0x3F400000, 77), (0x3F400000, 90210), (0, 3006), (0xBF000000, 15)]
    (decideRow false ⟨false, 64, 50, some 0x3F400000, some 0x3E99999A⟩ ⟨[0, 0], 0, 0, 0, false, none⟩
      ⟨cs, 100, cs, 0x40200000, none⟩).dec.cut = 3 ∧
    (decideRow false ⟨false, 64, 50, some 0x3F400000, none⟩ ⟨[0, 0], 0, 0, 0, false, none⟩
      ⟨cs, 100, cs, 0x40200000, none⟩).dec.cut = 4 ∧ logpOf 0x3F400000 0x40200000 = 0xBF00 := by decide +kernel

/-- Spec 08: the governor of the example goes to depth 2. -/
theorem test_governor_example :
    govStep ⟨1, 8, 4, 0, 0, 0, [0, 2]⟩ true ⟨3, 1, 0, false, 0⟩ 3 2 1 = ⟨2, 0, 0, false, 0⟩ := by decide

/-- Spec 10, before R290: the refill over two periods meets CAP. -/
theorem test_refill_example : refilled (-64) 0 600 1000 2 = 1000 := by decide

/-- Spec 17: addresses of the register-map example. -/
theorem test_address_example :
    pageAt (0x123184 / 0x1000) = some (.ten 35) ∧ winAt true 0x729394 = some (.bitmaps, 0x229394) ∧
    winAt false 0x500F00 = some (.reqTable, 7 * 512 + 0x100) ∧ winAt false 0xF80644 = some (.dir, 16 * 100 + 4) ∧
    winAt false 0xD20680 = some (.config, 0x20000 + 3 * 0x200 + 2 * 0x40) := by decide

/-- Spec 13, after R368: a root entry at the address of the example names the next table. -/
theorem test_walk_example :
    ((walkStep { xfer0 with id := 9, addr := 0x7F4012345680, rights := .tenant 35 } ⟨9, 1, 1, 0x80001000, 0x7F4012345680, true, true⟩
      0x7F4012345680 35 0x80002003 up).mem.xfers.map fun x => x.addr) = [0x80002488] := by decide +kernel

/-- Three counts of the manual's CRC-32 (R313): the check value of the nine digits. -/
theorem test_crc32 : crc32 [0x31, 0x32, 0x33, 0x34, 0x35, 0x36, 0x37, 0x38, 0x39] = 0xCBF43926 := by decide +kernel

/-! ## Single commands -/

/-- R75: a grant past the largest i32 saturates. -/
theorem test_grant_saturates :
    (after (.grant 9 5 (par 5)) (mk { up with tenants := [(9, { Tenant.cold with grant := 2147483645 })] })).map
      (fun t => (tenantAt t.blk 9).grant) = some 2147483647 := by decide +kernel

/-- R456: FORCE_FAULT. -/
theorem test_force_fault :
    (after (.forceFault 2 (par 2)) (mk up)).map (fun t => (t.blk.fault, t.blk.faultCode, t.blk.faultAddr)) =
    some (true, 0x18, 0) := by decide +kernel

/-- R63: a push of count 7 in refine mode with PREEMPT. -/
theorem test_push :
    (after (.launchPush 11 (par 11)) (mk (setReg 0x004080 7 up))).map (fun t => t.blk.launchQ) =
    some [⟨7, true, true, none⟩] := by decide +kernel

/-- R49, R63: count word 7 makes an entry of count 7 due and leaves one of count 8. -/
theorem test_count_word :
    (after (.meridianWord (BitVec.ofNat 72 (7 + 2 ^ 64 * ((List.range 256).find? fun n =>
      wordCheck (BitVec.ofNat 72 (7 + 2 ^ 64 * n)) = (crc8 64 7 0).toNat).getD 0)))
      (mk { up with launchQ := [⟨7, false, false, none⟩, ⟨8, false, false, none⟩] })).map
      (fun t => (t.blk.count, t.blk.launchQ.map (·.dueAt))) = some (some 7, [some 7, none]) := by decide +kernel

/-- R250: BLOCK of a READY entry acknowledges sequence 1. -/
theorem test_block :
    (after (.cmdBlock 5) (mk (cmdBlk .ready 4))).map (fun t => ((entryAt t.blk 5).state, (entryAt t.blk 5).ackSeq)) =
    some (.blocked, 1) := by decide +kernel

/-- R271: RESUME of a PAUSED directory entry. -/
theorem test_resume :
    (after (.resume 3) (mk (inForce [(0x0060B4, 16)] { up with
      dir := [(3, { DirEntry.freed with state := .paused })], dirHost := [(3, 0x17)] }))).map
      (fun t => (dirAt t.blk 3).state) = some .spReady := by decide +kernel

/-- R420: INTENT then CONFIRM move the four counts from the open sums to the counters. -/
theorem test_confirm :
    (after (.confirmStrobe false) { strobed [.confirm 4 1 2 3 0] with isl := { Island.fresh with
      tens := [(4, ⟨0, 0, 0, 0, 0, 0, 1, 2, 3, 0⟩)] } }).map (fun t => tenCount t.isl.tens 4) =
    some ⟨1, 2, 3, 0, 0, 0, 0, 0, 0, 0⟩ := by decide +kernel

/-- R408, R410: at T_TRIP the block trips with the temperature and the sensor in FAULT_ADDR. -/
theorem test_trip :
    (after (.thermalEval 255 3 0 0) (mk up)).map (fun t => (t.blk.faultCode, t.blk.faultAddr)) =
    some (0x12, 0x3FF) := by decide +kernel

/-- R393: the divider moves one step from 8 toward its target. -/
theorem test_divider :
    (after .dividerRampStep (mk (pw fun w => { w with fastOn := true }))).map (fun t => t.blk.pwr.divCur) = some 7 := by
  decide +kernel

/-! ## Witnesses: the register port -/

theorem test_meets_StepRunsFront : State.reset.pending = [] := by decide +kernel

theorem test_meets_BlockCommandOutcome :
    (ofIsland .batchForm = false ∧ (mk up).blk.testMode = false) ∧
    (ofIsland .batchForm = false ∧ (mk { up with testMode := true }).blk.testMode = true) := by decide +kernel

theorem test_meets_IslandCommandFrames :
    islandStrobe (.discard false) = some (0, isDiscard) ∧ takeStrobe 0 isDiscard [.count 7 1] = none ∧
    takeStrobe 0 isDiscard [.discard 0 5] = some (.discard 0 5, []) := ⟨rfl, by decide, by decide⟩

theorem test_meets_PortRowIsWrite :
    portRow (.pageSoftReset 0x4FF 1 0) = some (0x4FF02C, 1, 0) ∧ wellFormed (.pageSoftReset 0x4FF 1 0) = true ∧
    portRow (.grant 1023 7 0) = some (0xFCFFCC, 7, 0) ∧ wellFormed (.grant 1023 7 0) = true := by decide +kernel

/-- A request in error of each kind: misaligned, in no page and in no window, to a gated page and to a gated window, a write of
wrong parity to a page, to GATE of a gated page and to a window; with DBG gated and not; a page of an absent array. -/
theorem test_meets_ParityErrorRefused :
    (FrontOpen up ∧ gatedOut up .dbg = false ∧ InError up 0x500001 true 1 ∧ InError up 0x00F000 false 2 ∧
      InError up 0xFFFFFC false 2 ∧ InError up 0x00E080 true 4 ∧ InError up 0x500000 true 4) ∧
    (let b := { up with reg := { up.reg with gates := [(0x007000, .gated), (0x00E000, .gated)] } };
      FrontOpen b ∧ gatedOut b .dbg = true ∧ InError b 0x007080 false 3 ∧ InError b 0x007028 true 4 ∧
      InError b 0xF00000 false 3) ∧
    (let b := { up with grade := .x2 };
      FrontOpen b ∧ pageAt ((0x013FFC#24).toNat / 0x1000) = some (.ary 3) ∧ absentAry b (.ary 3) = true ∧
      pageAt ((0x011FFC#24).toNat / 0x1000) = some (.ary 1) ∧ absentAry b (.ary 1) = false) := by
  dsimp only
  refine ⟨⟨by decide +kernel, by decide +kernel, Or.inl (by decide +kernel), Or.inr (Or.inl (by decide +kernel)),
    Or.inr (Or.inr (Or.inl (by decide +kernel))), Or.inr (Or.inr (Or.inr (Or.inl ⟨.dbg, by decide +kernel⟩))),
    Or.inr (Or.inr (Or.inr (Or.inr ⟨(.reqTable, 0), by decide +kernel, by decide +kernel, by decide +kernel,
      by decide +kernel, Or.inr ⟨rfl, rfl, fun g h => by cases h⟩⟩)))⟩,
    ⟨by decide +kernel, by decide +kernel, Or.inr (Or.inr (Or.inr (Or.inl ⟨.sfu, by decide +kernel⟩))),
      Or.inr (Or.inr (Or.inr (Or.inl ⟨.sfu, by decide +kernel⟩))),
      Or.inr (Or.inr (Or.inr (Or.inr ⟨(.prog, 0), by decide +kernel, by decide +kernel, by decide +kernel,
        by decide +kernel, Or.inl ⟨rfl, .sfu, rfl, by decide +kernel⟩⟩)))⟩, by decide +kernel⟩

theorem test_meets_FrontEndHolds :
    (∀ b ∈ [{ up with resetting := true }, { up with pwr := { up.pwr with src := .hold } },
      { up with pwr := { up.pwr with src := .start } }],
      b.testMode = false ∧ b.pwr.rstLow = false ∧ frontOnly b = true) ∧
    (0x00000C#24).toNat = 0x00C ∧ (0x00000D#24).toNat ≠ 0x00C ∧
    (let b := { up with sramInit := true };
      frontOnly b = false ∧ b.sramInit = true ∧ (0x500000#24).toNat % 4 = 0 ∧ 0x500000 ≤ (0x500000#24).toNat ∧
      winAt (apertureSel b) (0x500000#24).toNat = some (.reqTable, 0)) := by
  dsimp only
  decide +kernel

theorem test_meets_WindowClosedBeforeRepair :
    let b := { up with cfg := { up.cfg with repairDone := false } };
    b.testMode = false ∧ b.pwr.rstLow = false ∧ frontOnly b = false ∧ b.sramInit = false ∧ b.cfg.repairDone = false ∧
    (par 7).toNat = parBits 4 (7#32).toNat ∧
    (∀ x ∈ [(0x500000#24, (Win.reqTable, 0)), (0xF00000#24, (.prog, 0))], x.1.toNat % 4 = 0 ∧
      winAt (apertureSel b) x.1.toNat = some x.2 ∧ x.2.1 ≠ .repair ∧ 0x500000 ≤ x.1.toNat) ∧
    winOwner .reqTable = none ∧ winOwner .prog = some .sfu ∧ gatedOut b .sfu = false := by
  dsimp only
  decide +kernel

/-- SCH.GUARD_ADDR_LO (RW-step), DBG.SCRATCH0 (RW), REQ's register at 0x084 with a value out of its range, and each register
whose write acts beyond its value; a W1C, an IRQ_STAT and a read-only register. -/
theorem test_meets_RegisterWriteTakes :
    (∀ x ∈ [(0x0050A0#24, Page.sch, true), (0x00E080#24, .dbg, false), (0x006084#24, .req, true)],
      x.1.toNat < 0x500000 ∧ x.1.toNat % 4 = 0 ∧ pageAt (x.1.toNat / 0x1000) = some x.2.1 ∧ absentAry up x.2.1 = false ∧
      plainReg x.2.1 (x.1.toNat % 0x1000) = true ∧ (rwDef x.1.toNat).isSome = true ∧ isStep x.1.toNat = x.2.2 ∧
      Accepts up x.2.1 8 (par 8) ∧ isLatched x.1.toNat = false ∧ up.reg.resetPend.contains (pageBase x.2.1) = false) ∧
    ((rwDef 0x0050A0).map fun x => x.merge (wr up) (wr up 0x0050A0) 8) = some (8, false) ∧
    ((rwDef 0x006084).map fun x => (x.merge (wr up) (wr up 0x006084) 0).2) = some true := by
  decide +kernel

theorem test_meets_RegisterWriteTakes_acting :
    (∀ x ∈ [(0x000008#24, Page.glb, 0x008), (0x001080#24, .clk, 0x080), (0x00208C#24, .pwr, 0x08C), (0x002098#24, .pwr, 0x098),
        (0x0060B4#24, .req, 0x0B4), (0x101094#24, .ten 1, 0x094)],
      x.1.toNat < 0x500000 ∧ x.1.toNat % 4 = 0 ∧ pageAt (x.1.toNat / 0x1000) = some x.2.1 ∧ absentAry up x.2.1 = false ∧
      x.2.2 = x.1.toNat % 0x1000 ∧ (rwDef x.1.toNat).isSome = true ∧ Accepts up x.2.1 16 (par 16) ∧ Accepts up x.2.1 0 (par 0)) ∧
    bit 16 1 = false ∧
    (spl .paused).state ≠ .free ∧ bits 15 14 0 ≤ 15 ∧
    (let b := ({ up with dir := [(15, spl .paused)] } : Block); b.dir = [(15, spl .paused)] ∧ 15 < bits 16 14 0) := by
  dsimp only
  decide +kernel

theorem test_meets_RegisterWriteTakes_other :
    (let b := inForce [(0xFC0050, 5), (0xFC0054, 10)] up;
      5 = bits (rf b (tpolReg 1 0x10)) 15 0 ∧ (5 ≤ bits 14 15 0 ∧ bits 14 15 0 < 5 + bits (rf b (tpolReg 1 0x14)) 16 0) ∧
      bits 4 15 0 < 5 ∧ 5 + bits (rf b (tpolReg 1 0x14)) 16 0 ≤ bits 15 15 0) ∧
    (∀ x ∈ [(0x00400C#24, Page.mer, 0x00C), (0x004018#24, .mer, 0x018), (0x004098#24, .mer, 0x098), (0x004FFC#24, .mer, 0xFFC)],
      x.1.toNat < 0x500000 ∧ x.1.toNat % 4 = 0 ∧ pageAt (x.1.toNat / 0x1000) = some x.2.1 ∧ absentAry up x.2.1 = false ∧
      x.2.2 = x.1.toNat % 0x1000 ∧ Accepts up x.2.1 1 (par 1) ∧ inert .mer x.2.2 = decide (0x098 ≤ x.2.2)) := by
  dsimp only
  decide +kernel

/-- Writing 1 to two of three flags of MER clears those two alone (R12, R462). -/
theorem test_w1c :
    let b := flagClear .mer 5 (flagRaise .mer 0 (flagRaise .mer 1 (flagRaise .mer 2 up)));
    flagWord .mer b = 2 ∧ irqStat .mer (irqClear .mer 1 (irqRaise .mer 0 (irqRaise .mer 3 up))) = 8 := by
  dsimp only
  decide +kernel

theorem test_meets_CountReadLatches :
    (∀ x ∈ [(0x004098#24, 0x00409C#24, Page.mer), (0x0020AC#24, 0x0020B0#24, .pwr), (0x0050C8#24, 0x0050C4#24, .sch),
        (0x00B08C#24, 0x00B094#24, .xlt), (0x00C0B0#24, 0x00C0B4#24, .rdg), (0x00D080#24, 0x00D084#24, .mtr),
        (0x1010A8#24, 0x1010AC#24, .ten 1)],
      x.1.toNat < 0x500000 ∧ x.1.toNat % 4 = 0 ∧ pageAt (x.1.toNat / 0x1000) = some x.2.2 ∧
      x.2.1.toNat ∈ latched x.1.toNat ∧ PortOpen up x.2.2) ∧
    (let b := inForce [(0xFC0050, 5), (0xFC0054, 10)] (setReg 0x101094 5 up);
      0x10109C ∈ latched (0x101098#24).toNat ∧ PortOpen b (.ten 1) ∧ ctrInRange b 1 = true) ∧
    (PortOpen up (.ten 1023) ∧ (0x4FF09C#24).toNat = 0x100000 + 1023 * 0x1000 + 0x09C ∧ ctrInRange up 1023 = false) := by
  dsimp only
  decide +kernel

/-- Plain reads of a page, and reads of each window: both regions of an entry, each store, both views of the banks, a directory
entry in use and one that is not, a policy register and GRANT, and the repair map, before REPAIR_DONE too. -/
theorem test_meets_CountReadLatches_plain :
    (∀ x ∈ [(0x000004#24, Page.glb), (0x0050A0#24, .sch), (0x0020BC#24, .pwr), (0x1010A0#24, .ten 1), (0x4FF080#24, .ten 1023)],
      x.1.toNat < 0x500000 ∧ x.1.toNat % 4 = 0 ∧ pageAt (x.1.toNat / 0x1000) = some x.2 ∧ PortOpen up x.2 ∧
      absentAry up x.2 = false ∧ isLatched x.1.toNat = false) ∧
    (FrontOpen up ∧ up.sramInit = false ∧ up.cfg.repairDone = true ∧
      ∀ x ∈ [(0x5000FC#24, Win.reqTable, 0x0FC), (0x500100#24, .reqTable, 0x100), (0xF00000#24, .prog, 0),
        (0xD20680#24, .config, 0x20680), (0xE20680#24, .config, 0x120680), (0xF80644#24, .dir, 1604),
        (0xFC0008#24, .policy, 8), (0xFC000C#24, .policy, 12)],
        x.1.toNat % 4 = 0 ∧ 0x500000 ≤ x.1.toNat ∧ winAt (apertureSel up) x.1.toNat = some x.2 ∧
        ((winOwner x.2.1).all fun g => !gatedOut up g) = true) ∧
    spillN up ≤ 1604 / 16 ∧ 1604 / 16 < spillN (inForce [(0x0060B4, 101)] up) := by
  decide +kernel

/-- R445, R434: a bank with an image in it, at its LENGTH and below; free pages before the first boundary and after it. -/
theorem test_meets_CountReadLatches_bank :
    (let b := { up with stores := { up.stores with bank0 := [(4, 0x40000), (0xFFFF, 5), (0x10000, 7)] } };
      bankShown b 0 0x3FFFC = 5 ∧ bankShown b 0 0x40000 = 0 ∧ bankWord b 0 0x40000 = 7) ∧
    (let b := { up with stores := { up.stores with bank0 := [(4, 0x3FFC0), (0x10000, 7)] } };
      bankShown b 0 0x40000 = 7) ∧
    (let b := inForce [(0x006080, 9)] up;
      freeCount { b with launched := true, used := [0] } = 8 ∧ freeCount { b with launched := false } = 0) := by
  decide +kernel

/-- Each clause at its boundaries: offsets 0x098, 0x09C, 0x0FC and 0x100 of an entry, the words of a directory entry in use
and one past SPILL_N, both views of the banks, the repair map before REPAIR_DONE and after it, a policy word in and out of
range. -/
theorem test_meets_TableWindowWrites :
    (FrontOpen up ∧ up.sramInit = false ∧ up.cfg.repairDone = true ∧ (par 9).toNat = parBits 4 (9#32).toNat ∧
      apertureSel up = false ∧
      ∀ x ∈ [(0x500098#24, 0x098), (0x50009C#24, 0x09C), (0x5000FC#24, 0x0FC), (0x500100#24, 0x100)],
        x.1.toNat % 4 = 0 ∧ 0x500000 ≤ x.1.toNat ∧ winAt false x.1.toNat = some (.reqTable, x.2) ∧ x.2 % 512 = x.2) ∧
    (let b := inForce [(0x0060B4, 16)] up;
      FrontOpen b ∧ b.sramInit = false ∧ b.cfg.repairDone = true ∧
      winAt (apertureSel b) (0xF800F0#24).toNat = some (.dir, 0xF0) ∧ 0xF0 / 16 < spillN b ∧
      winAt (apertureSel b) (0xF800FC#24).toNat = some (.dir, 0xFC) ∧ 0xFC / 16 < spillN b ∧ 0xFC % 16 ≠ 0 ∧
      winAt (apertureSel b) (0xF80100#24).toNat = some (.dir, 0x100) ∧ spillN b ≤ 0x100 / 16) ∧
    (winAt false (0xD00000#24).toNat = some (.config, 0) ∧ bankLocked up 0 = true ∧
      winAt false (0xE00000#24).toNat = some (.config, 0x100000) ∧ bankLocked up (0x100000 / 0x100000) = false ∧
      up.cfg.active < 2) ∧
    (let b := { up with cfg := { up.cfg with repairDone := false } };
      FrontOpen b ∧ b.sramInit = false ∧ winAt (apertureSel b) (0xFDFFFC#24).toNat = some (.repair, 0xFFFC)) ∧
    (winAt false (0xFC0000#24).toNat = some (.policy, 0) ∧ 0 % 0x40 ≠ 0x0C ∧
      ((rwDef (0xFC0000 + 0)).map fun x => (x.merge (wr up) (wr up 0xFC0000) 0x101).2) = some false ∧
      ((rwDef (0xFC0000 + 0)).map fun x => (x.merge (wr up) (wr up 0xFC0000) 0).2) = some true) := by
  dsimp only
  decide +kernel

theorem test_meets_TableWindowWrites_stores :
    ((Win.prog, 4, 0x20000, Page.sfu) ∈ [(Win.bitmaps, 0, 0x200000, Page.sel), (.automata, 1, 0x80000, .sel),
        (.bias, 2, 0x80000, .sel), (.penalty, 3, 0x2000, .sel), (.prog, 4, 0x20000, .sfu), (.freq, 5, 0x20000, .sfu)] ∧
      winAt false (0xF00000#24).toNat = some (.prog, 0) ∧ gatedOut up .sfu = false ∧
      epochLocked up 4 (0 / 0x20000) = true ∧ winAt false (0xF3FFFC#24).toNat = some (.prog, 0x3FFFC) ∧
      epochLocked up 4 (0x3FFFC / 0x20000) = false) ∧
    (let b := setReg 0x000100 1 up;
      FrontOpen b ∧ b.sramInit = false ∧ b.cfg.repairDone = true ∧
      winAt (apertureSel b) (0xB02000#24).toNat = some (.penalty, 0x2000) ∧ gatedOut b .sel = false ∧
      epochLocked b 3 (0x2000 / 0x2000) = false) := by
  dsimp only
  decide +kernel

/-- R12, R141: K is a reserved place of every instruction but LDC and, in two bits, CVU. -/
theorem test_reserved_k :
    progMask 512 0x24000000 = 0xFFFFFF03 ∧ progMask 512 0x1C000000 = 0xFFFFFFFF ∧ progMask 32767 0x44400000 = 0xFFFFFF00 ∧
    progMask 1 0 = 0xFFFF ∧ progMask 2 0 = 0 ∧ progMask 511 0 = 0xFFFFFFFF := by decide

/-! ## Witnesses: rows that write one register -/

theorem test_meets_LaunchPush :
    (∀ n ∈ [1, 3, 11], let d := BitVec.ofNat 32 n; let b := setReg 0x004080 6 { up with count := some 5, launchQ := [⟨5, false, false, none⟩] };
      Accepts b .mer d (par d) ∧ bit d 0 = true ∧ b.launchQ.length < 8 ∧ bits d 2 1 < 2 ∧
      (∀ e ∈ b.launchQ.getLast?, e.count < stagedCount b) ∧ (∀ n ∈ b.count, n < stagedCount b)) ∧
    (let b := { up with launchQ := List.replicate 8 ⟨0, false, false, none⟩ };
      Accepts b .mer 1 (par 1) ∧ bit 1 0 = true ∧ 8 ≤ b.launchQ.length) ∧
    (Accepts up .mer 5 (par 5) ∧ bit 5 0 = true ∧ 2 ≤ bits 5 2 1) ∧
    (let b := setReg 0x004080 5 { up with launchQ := [⟨5, false, false, none⟩] };
      Accepts b .mer 1 (par 1) ∧ ∃ e ∈ b.launchQ.getLast?, stagedCount b ≤ e.count) ∧
    (let b := setReg 0x004080 5 { up with count := some 5 };
      Accepts b .mer 1 (par 1) ∧ ∃ n ∈ b.count, stagedCount b ≤ n) := by
  dsimp only
  decide +kernel

theorem test_meets_TenantRequests :
    (WindowOpen up ∧ (par 0x80000000).toNat = parBits 4 (0x80000000#32).toNat) ∧
    Accepts up (.ten (1023#10).toNat) 1 (par 1) ∧ bit 1 0 = true := by decide +kernel

theorem test_meets_TableSwitchesBegin :
    (Accepts up .sfu 1 (par 1) ∧ bit 1 0 = true ∧ bit 1 1 = false ∧ StoreIdle up 4) ∧
    (let b := { up with epochs := { up.epochs with progCheck := true } };
      Accepts b .sfu 1 (par 1) ∧ ¬ StoreIdle b 4) ∧
    (Accepts up .sfu 2 (par 2) ∧ bit 2 1 = true ∧ bit 2 0 = false ∧ StoreIdle up 5) ∧
    (let b := { up with epochs := { up.epochs with pending := [false, false, false, false, false, true] } };
      Accepts b .sfu 2 (par 2) ∧ ¬ StoreIdle b 5) ∧
    (Accepts up .sfu 3 (par 3) ∧ bit 3 0 = true ∧ bit 3 1 = true ∧ StoreIdle up 4 ∧ StoreIdle up 5) := by
  dsimp only
  decide +kernel

theorem test_meets_TableSwitchesBegin_sel :
    (Instr.penSwitch 15 (par 15) ∈ [Instr.maskSwitch 15 (par 15), .autoSwitch 15 (par 15), .biasSwitch 15 (par 15),
        .penSwitch 15 (par 15)] ∧ wellFormed (.penSwitch 15 (par 15)) = true ∧ Accepts up .sel 15 (par 15) ∧
      ∀ k < 4, bit 15 k = true → StoreIdle up k) ∧
    (let b := { up with epochs := { up.epochs with selChecks := [[false, false, false, true]] } };
      wellFormed (.penSwitch 9 (par 9)) = true ∧ Accepts b .sel 9 (par 9) ∧
      bit 9 3 = true ∧ ¬ StoreIdle b 3) := by
  dsimp only
  decide +kernel

theorem test_meets_ConfigCommands :
    (∀ n ∈ [1, 2, 4, 8, 16, 31], Accepts up .cfg (BitVec.ofNat 32 n) (par (BitVec.ofNat 32 n))) ∧
    (bits 1 4 0 = 1 ∧ BanksIdle up) ∧
    (let b := { up with cfg := { up.cfg with idleValid := true } };
      Accepts b .cfg 2 (par 2) ∧ bits 2 4 0 = 2 ∧ BanksIdle b ∧ b.cfg.idleValid = true) ∧
    (bits 2 4 0 = 2 ∧ BanksIdle up ∧ up.cfg.idleValid = false) ∧
    bits 4 4 0 = 4 ∧ bits 16 4 0 = 16 ∧
    (let b := setReg 0x0030AC 0x500000 (setReg 0x0030B0 1 up);
      Accepts b .cfg 8 (par 8) ∧ bits 8 4 0 = 8 ∧ b.cfg.loadBusy = false ∧ b.fault = false ∧
      bits (wr b 0x0030B0) 16 0 ≠ 0 ∧ loadRangeOk b (wr b 0x0030AC).toNat (bits (wr b 0x0030B0) 16 0) = true) ∧
    (let b := { up with cfg := { up.cfg with loadBusy := true } };
      Accepts b .cfg 8 (par 8) ∧ b.cfg.loadBusy = true) ∧
    (bits (wr up 0x0030B0) 16 0 = 0) ∧
    (let b := setReg 0x0030AC 0x4FFFC0 (setReg 0x0030B0 1 up);
      Accepts b .cfg 8 (par 8) ∧ loadRangeOk b (wr b 0x0030AC).toNat (bits (wr b 0x0030B0) 16 0) = false) := by
  dsimp only
  decide +kernel

theorem test_meets_CorrAndForce :
    (Accepts up .pwr 1 (par 1) ∧ bit 1 0 = true) ∧ (Accepts up .glb 2 (par 2) ∧ bit 2 1 = true ∧ up.fault = false) ∧
    (let b := { up with cfg := { up.cfg with loadBusy := true, wdOpen := true } };
      Accepts b .glb 2 (par 2) ∧ b.fault = false ∧ b.cfg.loadBusy = true ∧ b.cfg.wdOpen = true) := by
  dsimp only
  decide +kernel

theorem test_meets_PowerRequests :
    (∀ n ∈ [0, 1, 2, 3, 4, 5, 7], Accepts up .pwr (BitVec.ofNat 32 n) (par (BitVec.ofNat 32 n))) ∧
    (bits 2 2 0 = 2 ∧ up.pwr.state = .run ∧
      (let b := { running (pass .tiles) with pwr := { up.pwr with state := .throttle } };
        Accepts b .pwr 2 (par 2) ∧ b.pwr.state = .throttle ∧ anyPass b = true)) ∧
    (let b := pw fun w => { w with state := .drain };
      Accepts b .pwr 0 (par 0) ∧ bits 0 2 0 = 0 ∧ b.pwr.state = .drain ∧ b.pwr.stop = false ∧
      b.pwr.thLevel ≤ minDiv b ∧ b.pwr.plLevel ≤ minDiv b) ∧
    (let b := pw fun w => { w with state := .drain, dusk := true };
      Accepts b .pwr 3 (par 3) ∧ bits 3 2 0 = 3 ∧ Accepts b .pwr 4 (par 4) ∧ bits 4 2 0 = 4 ∧
      b.pwr.state = .drain ∧ b.pwr.dusk = true) ∧
    (¬ (up.pwr.state = .drain ∧ up.pwr.dusk = true)) ∧ bits 1 2 0 = 1 ∧ 5 ≤ bits 5 2 0 := by
  dsimp only
  decide +kernel

theorem test_meets_PowerRequests_wake :
    (∀ st ∈ [PState.retain, .offReady], ∀ p ∈ [true, false], let b := pw fun w => { w with state := st, pgCmp := p };
      Accepts b .pwr 0 (par 0) ∧ Accepts b .pwr 2 (par 2) ∧ b.pwr.state = st ∧ b.pwr.railFell = false ∧
      b.pwr.cmpUp = false ∧ b.pwr.stop = false ∧ b.pwr.thLevel ≤ minDiv b ∧ b.pwr.plLevel ≤ minDiv b ∧
      b.pwr.pgCmp = p ∧ b.pwr.tripHold = false) ∧
    (let b := pw fun w => { w with state := .offReady, pgCmp := false, railFell := true };
      Accepts b .pwr 0 (par 0) ∧ b.pwr.state = .offReady ∧ b.pwr.railFell = true ∧ b.pwr.stop = false ∧
      b.pwr.thLevel ≤ minDiv b ∧ b.pwr.plLevel ≤ minDiv b) := by
  dsimp only
  decide +kernel

theorem test_meets_BlockSoftReset :
    (Accepts up .glb 1 (par 1) ∧ bit 1 0 = true ∧ up.fault = false ∧ up.cfg.wdRollback = false ∧
      (up.cfg.pending && up.cfg.pendIsAuto) = false) ∧
    (let b := { up with tenants := [(3, { Tenant.cold with fair := 5, balance := 7 })] };
      Accepts b .glb 1 (par 1) ∧ b.fault = false ∧ twf (fun _ => Tenant.cold) b.tenants = true) ∧
    (let b := { up with fault := true, faultCode := 0x18 };
      Accepts b .glb 1 (par 1) ∧ b.faultCode ≠ 4 ∧ b.cfg.wdRollback = false) ∧
    (∀ a ∈ [0, 0x6FFFFFF, 0x7000000, 0x77FFFFF, 0x7800000, 0x7FFFFFF],
      let b := { up with fault := true, faultCode := 4, faultAddr := a };
      Accepts b .glb 1 (par 1) ∧ b.fault = true ∧ b.faultCode = 4 ∧ b.faultAddr = a ∧ b.cfg.wdRollback = false ∧
      (b.cfg.pending && b.cfg.pendIsAuto) = false) ∧
    (∀ c ∈ [{ up.cfg with wdRollback := true, idleValid := true },
        { up.cfg with pending := true, pendIsAuto := true, idleValid := true }],
      let b := { up with cfg := c };
      Accepts b .glb 1 (par 1) ∧ b.fault = false ∧
      (b.cfg.wdRollback || (b.cfg.pending && b.cfg.pendIsAuto)) = true ∧ b.cfg.idleValid = true) := by
  dsimp only
  decide +kernel

theorem test_meets_PageResetWaits :
    ((0x005#12).toNat < 0x500 ∧ pageAt (0x005#12).toNat = some .sch ∧ Accepts up .sch 1 (par 1) ∧ bit 1 0 = true ∧
      absentAry up .sch = false ∧ Page.sch ≠ .glb ∧ Page.sch ≠ .mtr) ∧
    (pageAt (0x00D#12).toNat = some .mtr ∧ Accepts up .mtr 1 (par 1) ∧ absentAry up .mtr = false) ∧
    (pageAt (0x000#12).toNat = some .glb ∧ Accepts up .glb 1 (par 1) ∧ absentAry up .glb = false) ∧
    ((0x4FF#12).toNat < 0x500 ∧ pageAt (0x4FF#12).toNat = some (.ten 1023) ∧ Accepts up (.ten 1023) 1 (par 1) ∧
      absentAry up (.ten 1023) = false) := by decide +kernel

theorem test_meets_GateWrites :
    (pageAt (0x000#12).toNat = some .glb ∧ FrontOpen up ∧ (par 0).toNat = parBits 4 (0#32).toNat ∧
      absentAry up .glb = false ∧ bit 0 0 = false ∧ gateable .glb = false) ∧
    (pageAt (0x013#12).toNat = some (.ary 3) ∧ absentAry up (.ary 3) = false ∧ gateable (.ary 3) = true ∧
      gateOf up (.ary 3) = .running) ∧
    (let b := { up with reg := { up.reg with gates := [(0x013000, .wakePending)] } };
      FrontOpen b ∧ gateOf b (.ary 3) = .wakePending ∧ absentAry b (.ary 3) = false) ∧
    (let b := { up with reg := { up.reg with gates := [(0x013000, .gatePending)] } };
      FrontOpen b ∧ gateOf b (.ary 3) = .gatePending ∧ bit 1 0 = true) ∧
    (let b := { up with reg := { up.reg with gates := [(0x013000, .gated)] } };
      FrontOpen b ∧ gateOf b (.ary 3) = .gated ∧ (par 1).toNat = parBits 4 (1#32).toNat) := by
  dsimp only
  decide +kernel

theorem test_meets_PllAndHaltRequests :
    bit 1 0 = true ∧
    (let b := pw fun w => { w with pllLock := false, src := .dawn };
      Accepts b .clk 1 (par 1) ∧ b.pwr.pllLock = false) ∧
    (let b := pw fun w => { w with src := .dawn, pgCmp := false };
      Accepts b .clk 1 (par 1) ∧ b.pwr.pllLock = true ∧ b.pwr.src = .dawn ∧ b.pwr.pgCmp = false ∧ b.pwr.cmpUp = false) ∧
    (let b := pw fun w => { w with src := .dawn, pgCmp := true };
      Accepts b .clk 1 (par 1) ∧ b.pwr.pllLock = true ∧ b.pwr.src = .dawn ∧ b.pwr.pgCmp = true ∧ b.pwr.cmpUp = false ∧
      b.pwr.tripHold = false ∧ b.pwr.state = .run ∧ b.pwr.ramp = [] ∧ b.pwr.slot = 0) ∧
    (let b := pw fun w => { w with src := .dawn, cmpUp := true };
      Accepts b .clk 1 (par 1) ∧ b.pwr.pllLock = true ∧ b.pwr.src = .dawn ∧ b.pwr.cmpUp = true ∧ b.pwr.ramp = [] ∧
      b.pwr.fastOn = false ∧ b.pwr.isolated = false ∧ b.pwr.waking = false) ∧
    Accepts up .rdg 1 (par 1) := by
  dsimp only
  decide +kernel

/-! ## Witnesses: events that end what a write began -/

theorem test_meets_XltResume :
    (Accepts up .xlt 0x800 (par 0x800) ∧ bit 0x800 11 = true ∧ up.mem.xltHeld.contains (bits 0x800 9 0) = false) ∧
    (let h := heldBlk (.hist 5);
      let b := { h with mem := { h.mem with walks := [⟨0, 1, 1, 0, 0, true, false⟩] } };
      Accepts b .xlt 0x800 (par 0x800) ∧ bit 0x800 10 = false ∧ b.mem.xltHeld.contains (bits 0x800 9 0) = true) ∧
    (∀ p ∈ [Purpose.hist 5, .fill 5 3], Accepts (heldBlk p) .xlt 0xC00 (par 0xC00) ∧ bit 0xC00 10 = true ∧
      bit 0xC00 11 = true ∧ (heldBlk p).mem.xltHeld.contains (bits 0xC00 9 0) = true ∧ (heldBlk p).fault = false ∧
      ∀ x ∈ (heldBlk p).mem.xfers, (heldBlk p).mem.xfers = [x] ∧ pagedTenant (heldBlk p) x = some (bits 0xC00 9 0) ∧
        xferBeats x = 1 ∧ x.issued = 0 ∧ x.redo = [] ∧ x.ended = 0 ∧ fatalCode x = none ∧
        (failCode x = none ∨ (x.tenant = some (bits 0xC00 9 0) ∧
          (tenantAt (heldBlk p) 0).faultCode = 0 ∧ (tenantAt (heldBlk p) 0).clearPend = false))) := by decide +kernel

theorem test_meets_FaultQueueAndInval :
    Accepts up .xlt 1 (par 1) ∧ Accepts up .xlt 0xFFF (par 0xFFF) ∧ bit 1 0 = true ∧ bit 0xFFF 11 = true ∧
    (let r : XltReport := ⟨0, 0, 0, false, 1, 0⟩; let b := { up with mem := { up.mem with fqueue := [r] } };
      Accepts b .xlt 1 (par 1) ∧ b.mem.fqueue = r :: [] ∧ b.mem.fqWait = []) ∧
    (let r : XltReport := ⟨0, 0, 0, false, 1, 0⟩;
      let b := { up with mem := { up.mem with fqueue := List.replicate 64 r, fqWait := [r] } };
      Accepts b .xlt 1 (par 1) ∧ b.mem.fqueue = r :: List.replicate 63 r ∧ b.mem.fqWait = r :: []) ∧
    up.mem.fqueue = [] := by
  dsimp only
  decide +kernel

theorem test_meets_ConfigChecksEnd_bank :
    (∀ c, Live (checkBlk (image c)) ∧ (checkBlk (image c)).cfg.checking = true ∧
      bankWords (checkBlk (image c)) (1 - (checkBlk (image c)).cfg.active) = image c) ∧
    ∃ c, imageCheck (checkBlk (image c)).grade (image c) = none :=
  ⟨fun _ => ⟨⟨rfl, rfl⟩, rfl, rfl⟩, imageCrc (image 0) 0x40000, image_good _ (by
    unfold imageCrc
    rw [image_bytes _ 0 0 15 (by decide), image_bytes _ 0 16 _ (by decide)])⟩

theorem test_meets_ConfigChecksEnd :
    (Live (checkBlk []) ∧ (checkBlk []).cfg.checking = true ∧
      imageCheck (checkBlk []).grade (bankWords (checkBlk []) (1 - (checkBlk []).cfg.active)) = some (1, some 0)) ∧
    (let b := { up with cfg := { up.cfg with rolling := true } };
      Live b ∧ b.cfg.checking = false ∧ b.cfg.rolling = true) ∧
    (Live (repBlk [(1, 0x2144DF1C)]) ∧ (repBlk [(1, 0x2144DF1C)]).cfg.applying = true ∧
      repairCheck (repBlk [(1, 0x2144DF1C)]) = none) ∧
    (Live (repBlk []) ∧ (repBlk []).cfg.applying = true ∧ repairCheck (repBlk []) = some (0x10, 0)) := by
  dsimp only
  decide +kernel

theorem test_meets_TableChecksEnd :
    (let b := tblBlk [true, true, true, false] [] [];
      Live b ∧ gatedOut b .sfu = false ∧ gatedOut b .sel = false ∧ b.epochs.progCheck = true ∧ b.epochs.freqCheck = true ∧
      progCheck b (idleEpoch b 4) = none ∧
      freqCheck b (idleEpoch b 5) = none ∧ b.epochs.selChecks = [true, true, true, false] :: [] ∧
      ∀ k < 4, [true, true, true, false].getD k false = true → selFail b k = none) ∧
    (let b := tblBlk [false, false, true, true] [(32768, 1)] [(33793, 3)];
      Live b ∧ gatedOut b .sfu = false ∧ gatedOut b .sel = false ∧ progCheck b (idleEpoch b 4) = some 0 ∧
      freqCheck b (idleEpoch b 5) = some 1 ∧
      b.epochs.selChecks = [false, false, true, true] :: [] ∧ selFail b 3 = some 0 ∧
      ∀ j < 3, [false, false, true, true].getD j false = true → selFail b j = none) ∧
    (let b := { up with reg := { up.reg with gates := [(0x007000, .gated), (0x008000, .wakePending)] } };
      Live b ∧ gatedOut b .sfu = true ∧ gatedOut b .sel = true) := by
  dsimp only
  decide +kernel

/-- A beat for each window, the repair map before REPAIR_DONE, and what each clause asks of the block. -/
theorem test_meets_LoadBeatLands :
    (∀ z ∈ [(0x5000C0, Win.reqTable, 0xC0, false, true), (0x500100, .reqTable, 0x100, false, true),
        (0xF80000, .dir, 0, false, true), (0xD00000, .config, 0, false, true), (0xE00000, .config, 0x100000, false, true),
        (0xFD0000, .repair, 0, false, false), (0xFC0040, .policy, 0x40, true, true), (0xF00000, .prog, 0, false, true),
        (0xF20000, .prog, 0x20000, false, true), (0xB02000, .penalty, 0x2000, true, true)],
      let x := { xfer0 with issued := 1, ended := 1 };
      let b := { memBlk x [] with cfg := { up.cfg with
        loadBusy := true, loadDst := z.1, loadLen := 1, loadSel := z.2.2.2.1, repairDone := z.2.2.2.2 } };
      Live b ∧ b.cfg.loadBusy = true ∧ b.sramInit = false ∧ (b.cfg.repairDone = true ∨ z.2.1 = .repair) ∧
      loadXfer b = some x ∧ beatHere b x b.cfg.loadDone = true ∧ (b.cfg.loadDst + 64 * b.cfg.loadDone) % 64 = 0 ∧
      winAt b.cfg.loadSel (b.cfg.loadDst + 64 * b.cfg.loadDone) = some (z.2.1, z.2.2.1)) ∧
    (spillN up ≤ 0 ∧ 0 / 16 + 3 < spillN (inForce [(0x0060B4, 4)] up)) ∧
    (bankLocked up (0 / 0x100000) = true ∧ bankLocked up (0x100000 / 0x100000) = false ∧ up.cfg.active < 2) ∧
    (((rwDef (0xFC0040 + 4 * 7)).map fun r => (r.merge (wr up) (wr up (0xFC0040 + 4 * 7)) 0).2) = some false ∧
      ((rwDef 0xFC0040).map fun r => (r.merge (wr up) (wr up 0xFC0040) 0).2) = some true) ∧
    (gatedOut up .sfu = false ∧ epochLocked up 4 (0 / 0x20000) = true ∧ epochLocked up 4 (0x20000 / 0x20000) = false ∧
      gatedOut { up with reg := { up.reg with gates := [(0x008000, .gated)] } } .sel = true) := by
  dsimp only
  decide +kernel

theorem test_meets_SingleEvents :
    (let b := { up with reg := { up.reg with gates := [(0x007000, .gatePending)] } };
      Live b ∧ pageAt (0x007#12).toNat = some .sfu ∧ gateOf b .sfu = .gatePending ∧ gateIdle b .sfu = true) ∧
    (∀ l ∈ [[], [0x007000]], let b := { up with reg := { up.reg with gates := [(0x007000, .wakePending)], gateAfter := l } };
      Live b ∧ gateOf b .sfu = .wakePending ∧ b.reg.gateAfter.contains (pageBase .sfu) = !l.isEmpty ∧ ∀ n < 4, Page.sfu ≠ .ary n) ∧
    (let b := { pw fun w => { w with cmpUp := true } with reg := { up.reg with gates := [(0x013000, .wakePending)] } };
      Live b ∧ pageAt (0x013#12).toNat = some (.ary 3) ∧ gateOf b (.ary 3) = .wakePending ∧ b.pwr.cmpUp = true ∧
      b.pwr.ramp.contains ⟨1, 3⟩ = false) ∧
    (let b := pw fun w => { w with cmpUp := true, ramp := [⟨1, 3⟩] }; Live b ∧ b.pwr.ramp.contains ⟨1, 3⟩ = true) ∧
    up.pwr.cmpUp = false ∧
    (∀ st ∈ [PState.retain, .offReady], let b := pw fun w => { w with state := st };
      Live b ∧ b.pwr.state = st ∧ b.pwr.isolated = false) := by
  dsimp only
  decide +kernel

/-! ## Witnesses: resets, clocks and power -/

theorem test_meets_ColdResetClears : up.testMode = false := by decide

theorem test_meets_ColdResetEnds :
    (State.reset.blk.testMode = false ∧ State.reset.blk.pwr.pinLow = true ∧ railsUp State.reset.blk = true) ∧
    (let b := { State.reset.blk with pwr := { State.reset.blk.pwr with pgIo := false } };
      b.testMode = false ∧ b.pwr.pinLow = true ∧ railsUp b = false ∧ railUp b .io = false) ∧
    (up.testMode = false ∧ up.pwr.pinLow = false ∧ railUp up .base = true) ∧
    (let b := pw fun w => { w with pgBase := false };
      b.pwr.pinLow = false ∧ railUp b .base = false ∧ railsUp { b with pwr := setRail .base true b.pwr } = true) ∧
    (let b := pw fun w => { w with pgBase := false, pgSram := false };
      railUp b .base = false ∧ railsUp { b with pwr := setRail .base true b.pwr } = false) := by
  dsimp only
  decide +kernel

theorem test_meets_ClocksStart :
    (let b := pw fun w => { w with dawnOk := false, src := .start, windows := 1, prevWin := 8192 };
      b.testMode = false ∧ b.pwr.rstLow = false ∧ b.pwr.judging = true ∧
      b.pwr.refSeen = true ∧ b.pwr.refclkOk = true ∧ b.pwr.dawnOk = false ∧ b.pwr.src = .start ∧ 1 ≤ b.pwr.windows ∧
      (let c := 8437#16; 6144 ≤ c.toNat ∧ c.toNat ≤ 10240 ∧ b.pwr.prevWin * 97 ≤ c.toNat * 100 ∧
        c.toNat * 100 ≤ b.pwr.prevWin * 103) ∧
      (6143#16).toNat < 6144 ∧ 10240 < (10241#16).toNat ∧ (7946#16).toNat * 100 < b.pwr.prevWin * 97 ∧
      b.pwr.prevWin * 103 < (8438#16).toNat * 100) ∧
    (let b := pw fun w => { w with dawnOk := false, src := .start, refSeen := false, refclkOk := false };
      b.pwr.judging = true ∧ b.pwr.refSeen = false ∧ b.pwr.dawnOk = false ∧ b.pwr.src = .start ∧
      b.pwr.refclkOk = false) ∧
    (∀ u ∈ [true, false], ∀ g ∈ [true, false], ∀ k ∈ [true, false],
      let b := pw fun w => { w with pgCmp := g, cmpUp := k, pllLock := false, src := .dawn, usePll := u };
      b.pwr.pllStarted = true ∧ b.pwr.refclkOk = true ∧ b.pwr.pllLock = false ∧ b.pwr.src ≠ .hold ∧
      b.pwr.usePll = u ∧ b.pwr.pgCmp = g ∧ b.pwr.cmpUp = k ∧ b.pwr.tripHold = false ∧ b.pwr.state = .run ∧
      b.pwr.ramp = [] ∧ b.pwr.slot = 0 ∧ b.pwr.fastOn = false ∧ b.pwr.isolated = false ∧ b.pwr.waking = false) := by
  dsimp only
  decide +kernel

theorem test_meets_MonitorTrips :
    (up.testMode = false ∧ up.pwr.rstLow = false ∧ up.pwr.src = .pll ∧
      (anyPass up || !up.mem.access.isEmpty || ridgeExpected up) = false) ∧
    (∀ d ∈ [true, false], let b := { running (pass .tiles) with pwr := { up.pwr with dawnOk := d } };
      b.pwr.src = .pll ∧ (anyPass b || !b.mem.access.isEmpty || ridgeExpected b) = true ∧ b.fault = false ∧
      b.pwr.dawnOk = d) := by
  dsimp only
  decide +kernel

theorem test_meets_ComputeRail :
    (∀ st ∈ [PState.run, .throttle, .drain, .retain, .offReady], let b := pw fun w => { w with state := st };
      b.testMode = false ∧ b.pwr.rstLow = false ∧ b.pwr.state = st ∧ b.fault = false ∧ b.pwr.isolated = false) ∧
    (up.pwr.src = .pll ∧ up.pwr.cmpUp = false ∧ up.pwr.tripHold = false ∧ up.pwr.state = .run ∧ up.pwr.ramp = [] ∧
      up.pwr.slot = 0) ∧
    (let b := { pw fun w => { w with cmpUp := true, ramp := [⟨0, 0⟩, ⟨1, 0⟩, ⟨1, 1⟩], slot := 1 } with
        reg := { up.reg with gates := [(0x010000, .wakePending)] } };
      0 < b.pwr.slot ∧ b.pwr.ramp.drop b.pwr.slot ≠ [] ∧ 1 ≤ bits (wr b 0x002084) 18 16 ∧ 1 ≤ bits (wr b 0x002084) 22 19) ∧
    (∀ l ∈ [[], [0x010000]], ∀ r ∈ [[], [⟨2, 0⟩]],
      let b := { pw fun w => { w with cmpUp := true, ramp := ⟨1, 0⟩ :: r, slot := 1 } with
        reg := { up.reg with gates := [(0x010000, .wakePending)], gateAfter := l } };
      0 < b.pwr.slot ∧ ⟨1, 0⟩ ∈ b.pwr.ramp.take b.pwr.slot ∧ gateOf b (.ary 0) = .wakePending ∧
      b.reg.gateAfter.contains (pageBase (.ary 0)) = !l.isEmpty ∧ (b.pwr.ramp.drop b.pwr.slot).isEmpty = r.isEmpty) ∧
    (∀ k ∈ [true, false], let b := pw fun w => { w with cmpUp := true, ramp := [⟨1, 3⟩], slot := 1, waking := k };
      0 < b.pwr.slot ∧ b.pwr.ramp.drop b.pwr.slot = [] ∧ b.pwr.src = .pll ∧
      b.pwr.cmpUp = true ∧ b.pwr.fastOn = false ∧ b.pwr.isolated = false ∧ b.pwr.waking = k) ∧
    (let b := pw fun w => { w with cmpUp := true, ramp := [⟨1, 3⟩], slot := 1, fastOn := true }; b.pwr.fastOn = true) ∧
    (let b := pw fun w => { w with fastOn := true, divCur := 3, thLevel := 4 };
      b.pwr.fastOn = true ∧ b.pwr.divCur < divTarget b) ∧
    (let b := pw fun w => { w with fastOn := true, divCur := 3 }; divTarget b < b.pwr.divCur) ∧
    (let b := pw fun w => { w with fastOn := true, divCur := 2 }; b.pwr.divCur = divTarget b) := by
  dsimp only
  decide +kernel

/-- R389: in CLOCK_HOLD no slot of the power-up queue ends. -/
theorem test_meets_ComputeRail_hold :
    ctrlClock up = true ∧
    (let b := pw fun w => { w with src := .hold, cmpUp := true, ramp := [⟨1, 0⟩], slot := 1 };
      ctrlClock b = false ∧ rampSlotEnd b = b) := by decide +kernel

/-- Temperatures at T_TRIP and below, at T_STOP and 6 below it; a running pass in each phase, one of a peer in its tiles and one
that rebuilds in its exchange; a parked one alone. -/
theorem test_meets_ThermalEvaluates :
    (Live up ∧ therm up 3 ≤ (255#8).toNat ∧ (0#8).toNat < therm up 3 ∧ up.fault = false ∧ up.pwr.isolated = false) ∧
    (∀ p ∈ [Phase.tiles, .prologue, .decide], ∀ k ∈ [0, 1],
      let c := { pass p with ex := { ex0 with round := k } };
      Live (running c) ∧ (running c).pwr.stop = false ∧ therm (running c) 2 ≤ (BitVec.ofNat 8 (therm up 2)).toNat ∧
      (BitVec.ofNat 8 (therm up 2)).toNat < therm (running c) 3 ∧ runCtx (running c) = some (0, c) ∧ c.phase = p ∧
      c.ex.round = k ∧ preemptable c = true) ∧
    (let c := spass .tiles ex0; runCtx (running c) = some (0, c) ∧ preemptable c = true) ∧
    (let c := { spass .tiles ex0 with rebuild := some (3, true) };
      runCtx (running c) = some (0, c) ∧ c.phase = .tiles ∧ preemptable c = false) ∧
    (let d := { pass .tiles with parked := true, parkedByStop := true };
      let b := { running d with running := none, pwr := { up.pwr with stop := true } };
      Live b ∧ b.pwr.stop = true ∧ (BitVec.ofNat 8 (therm up 2 - 6)).toNat + 5 < therm b 2 ∧
      (BitVec.ofNat 8 (therm up 2 - 6)).toNat < therm b 3 ∧ b.running = none ∧ ctxs b = [(0, d)] ∧ Waits b 0 d) := by
  dsimp only
  decide +kernel

/-! ## Witnesses: a step -/

theorem test_meets_CountWords :
    (up.testMode = false ∧ up.pwr.rstLow = false ∧ (crc8 64 (wordCount 0) 0).toNat = wordCheck 0 ∧ up.count = none) ∧
    (wordCount 0 = (2 ^ 64 - 1 + 1) % 2 ^ 64 ∧ wordCount 0 ≠ (5 + 1) % 2 ^ 64) ∧
    (crc8 64 (wordCount 1) 0).toNat ≠ wordCheck 1 := by decide +kernel

theorem test_meets_LaunchStarts :
    (up.testMode = false ∧ newestDue up = none ∧ ({ up with mcTick := false } : Block).mcTick = false) ∧
    (let b := { dueBlk with pwr := { dueBlk.pwr with stop := true } };
      newestDue b = some ⟨9, false, false, some 9⟩ ∧ canLaunch ⟨9, false, false, some 9⟩ b = false) ∧
    (goes dueBlk = true ∧ skipReason (boundary ⟨0, 0⟩ (atLaunch dueBlk)) = none ∧
      freeCtx (served (boundary ⟨0, 0⟩ (atLaunch dueBlk))) = some 0 ∧
      (served (boundary ⟨0, 0⟩ (atLaunch dueBlk))).formed = none ∧ (atLaunch dueBlk).launched = false) ∧
    (let b := { dueBlk with cfg := { dueBlk.cfg with activeValid := false } };
      goes b = true ∧ skipReason (boundary ⟨0, 0⟩ (atLaunch b)) = some 3) := by
  dsimp only
  decide +kernel

/-- The hypotheses of a boundary's effects: HALT_CLEAR without a parked sharded pass and beside one, a transfer that has
ended, held pages, a parked pass, a pending switch of each kind, and page resets, one and two. -/
theorem test_meets_LaunchStarts_boundary :
    (let b := { goBlk with rdg := { up.rdg with clearPend := true } };
      goes b = true ∧ (atLaunch b).rdg.clearPend = true ∧ ctxs (atLaunch b) = []) ∧
    (let c := { pass .tiles with sharded := true, parked := true, batch := { batch0 with reqs := [breq0] } };
      let b := { goBlk with ctx1 := some c, rdg := { up.rdg with clearPend := true }, entries := [(5, ent .inflight)] };
      goes b = true ∧ (atLaunch b).rdg.clearPend = true ∧ ctxs (atLaunch b) = [(1, c)] ∧ breq0 ∈ c.batch.reqs ∧
      breq0.prev ≠ .done ∧ (entryAt (atLaunch b) 5).state = .inflight ∧ c.reqs.filter leaves = []) ∧
    (let b := { goBlk with
        entries := [(5, { ent .moving with arrive := some (.ready, 0) })], used := [1], reg := { up.reg with stale := true } };
      goes b = true ∧ (atLaunch b).rdg.clearPend = false ∧ (entryAt (atLaunch b) 5).arrive = some (.ready, 0) ∧
      (atLaunch b).used ≠ []) ∧
    (let b := { goBlk with ctx1 := some { pass .tiles with parked := true } };
      goes b = true ∧ anyPass (atLaunch b) = true) ∧
    (∀ k ∈ [true, false], let b := { goBlk with cfg := { goBlk.cfg with pending := true, pendIsAuto := k, idleValid := true } };
      goes b = true ∧ anyPass (atLaunch b) = false ∧ (atLaunch b).cfg.pending = true ∧
      (atLaunch b).cfg.pendIsAuto = k ∧ 5 < (atLaunch b).epochs.active.length) ∧
    (let b := { goBlk with reg := { up.reg with resetPend := [0x005000, 0x007000], sinceReset := [0x0050A0] } };
      goes b = true ∧ anyPass (atLaunch b) = false ∧ pageBase .sch ∈ (atLaunch b).reg.resetPend ∧
      pageBase .sfu ∈ (atLaunch b).reg.resetPend ∧
      (∀ a ∈ [0x005080, 0x0050A0], (atLaunch b).reg.resetPend.filter
        (fun p => decide (p ≤ a) && decide (a < p + 0x1000)) = [0x005000]) ∧
      (atLaunch b).reg.resetPend.filter (fun p => decide (p ≤ 0x008080) && decide (0x008080 < p + 0x1000)) = []) := by
  dsimp only
  decide +kernel

/-- A page reset that waits for a parked pass, with a register written behind it, of SCH and of the page pool. -/
theorem test_meets_LaunchStarts_waits :
    let b := { goBlk with
      ctx1 := some { pass .tiles with parked := true }, used := [1]
      reg := { up.reg with resetPend := [0x005000, 0x006000], sinceReset := [0x0050A0, 0x006080] } };
    goes b = true ∧ anyPass (atLaunch b) = true ∧ (atLaunch b).used ≠ [] ∧ 0x0050A0 ∈ (atLaunch b).reg.sinceReset ∧
    0x006080 ∈ (atLaunch b).reg.sinceReset ∧ 0x006084 ∉ (atLaunch b).reg.sinceReset := by
  dsimp only
  decide +kernel

/-- R434: a value written behind a page reset that waits comes into force after it. -/
theorem test_behind_reset :
    let b := { goBlk with
      ctx1 := some { pass .tiles with parked := true }
      reg := { up.reg with written := [(0x006084, 9), (0x006094, 7)], resetPend := [0x006000], sinceReset := [0x006094] } };
    (rf (regsBoundary b) 0x006084, rf (regsBoundary b) 0x006094) = (9, 0) ∧
    rf (regsBoundary { b with ctx1 := none }) 0x006094 = 7 := by decide +kernel

/-- The hypotheses of its effects on tenants: periods gone by and none, with a balance below CAP and at it, a FAULT_CLEAR, and
a reset that may take effect and one that may not. -/
theorem test_meets_LaunchStarts_tenants :
    (let b := { setReg 0x0040A0 4 (setReg 0xFC0008 10 goBlk) with lastRefill := some 0 };
      let x := boundary ⟨0, 0⟩ (atLaunch b);
      goes b = true ∧ x.lastRefill = some 0 ∧ 0 < curPeriod x - 0 ∧ (rf x (tpolReg 0 8)).toNat = 10) ∧
    (goes goBlk = true ∧ (boundary ⟨0, 0⟩ (atLaunch goBlk)).lastRefill = none) ∧
    (∀ r ∈ [true, false], ∀ st ∈ [EState.moving, .ready],
      let b := { goBlk with
        tenants := [(0, { Tenant.cold with clearPend := !r, resetPend := r })], entries := [(5, ent st)] };
      let x := boundary ⟨0, 0⟩ (atLaunch b);
      goes b = true ∧ (tenantAt x 0).resetPend = r ∧ (tenantAt x 0).clearPend = !r ∧ resetReady x 0 = decide (st = .ready)) := by
  dsimp only
  decide +kernel

/-- EN at 0: a tenant in each state, with an entry that works, one that does not, and a spilled one; the first scan in
DRAINING of an entry of each kind and of a spilled one; and a transfer that ended in a directory entry. -/
theorem test_meets_LaunchStarts_drain :
    (∀ st ∈ [TState.dusk, .active, .draining], ∀ es ∈ [EState.ready, .blocked],
      let b := { goBlk with tenants := [(0, { Tenant.cold with state := st, balance := 1 })], entries := [(5, ent es)] };
      let x := boundary ⟨0, 0⟩ (atLaunch b);
      goes b = true ∧ twf (fun _ => DirEntry.freed) x.dir = true ∧ bit (rf x (tpolReg 0 0)) 0 = false ∧
      (tenantAt x 0).state = st ∧ ((tenantAt x 0).resetPend && resetReady x 0) = false ∧
      anyEntry x 0 working = decide (es = .ready) ∧ anyEntry x 0 competing = decide (es = .ready) ∧
      tenantBusy x 0 = decide (es = .ready) ∧ tenantInPass x 0 = false) ∧
    (let b := { goBlk with tenants := [(0, { Tenant.cold with state := .active })], dir := [(3, spl .paused)] };
      let x := boundary ⟨0, 0⟩ (atLaunch b);
      goes b = true ∧ (3, spl .paused) ∈ x.dir ∧ (spl .paused).tenant = 0 ∧ (spl .paused).state ≠ .free) ∧
    (∀ es ∈ [EState.ready, .blocked, .inflight, .moving],
      let b := inForce [(0x0060B4, 16)] (setReg 0x0060B4 16 { goBlk with
        tenants := [(0, { Tenant.cold with state := .draining })], entries := [(5, ent es)], dir := [(3, spl .spReady)] });
      let z := tenantBoundary (boundary ⟨0, 0⟩ (atLaunch b));
      goes b = true ∧ scansRun z = true ∧ (tenantAt z 0).state = .draining ∧ (tenantAt z 0).cancelsDone = false ∧
      (entryAt z 5).state = es ∧ (entryAt z 5).tenant = 0 ∧ 3 < spillN z ∧ spilled (dirAt z 3) = true ∧
      (dirAt z 3).tenant = 0) ∧
    (let b := inForce [(0x0060B4, 16)] { goBlk with dir := [(3, { spl .moving with ended := true, arrive := some .paused })] };
      goes b = true ∧ 3 < spillN (atLaunch b) ∧ (dirAt (atLaunch b) 3).ended = true ∧
      (dirAt (atLaunch b) 3).arrive = some .paused) := by
  dsimp only
  decide +kernel

/-- The hypotheses of a launch: a pass that runs and is pre-empted, a batch formed in advance that serves it, and one that a
peer discards. -/
theorem test_meets_LaunchStarts_pass :
    (let e : LaunchEnt := ⟨9, false, true, some 9⟩;
      let b := { goBlk with launchQ := [e], count := some 10, ctx0 := some (pass .tiles), running := some 0 };
      let x := boundary ⟨0, 0⟩ { b with launchQ := [] };
      newestDue b = some e ∧ canLaunch e b = true ∧ e.dueAt = some 9 ∧ skipReason x = none ∧ freeCtx (served x) = some 1 ∧
      (served x).running = some 0 ∧ ctxOf (served x) 0 = some (pass .tiles)) ∧
    (let b := { goBlk with formed := some batch0 };
      let y := served (boundary ⟨0, 0⟩ (atLaunch b));
      goes b = true ∧ freeCtx y = some 0 ∧ y.formed = some batch0 ∧ y.reg.stale = false ∧ batch0.refine = false ∧
      batch0.penEpoch = y.epochs.active.getD 3 0) ∧
    (let n := { batch0 with reqs := [breq0] };
      let b := shardBlk 1 { goBlk with formed := some n, entries := [(5, ent .inflight)] };
      let y := served (boundary ⟨0, 0⟩ (atLaunch b));
      goes b = true ∧ skipReason (boundary ⟨0, 0⟩ (atLaunch b)) = none ∧ freeCtx y = some 0 ∧ y.formed = some n ∧
      shardsOf y y.cfg.active ≠ 1 ∧ isSummit y y.cfg.active = false ∧ breq0 ∈ n.reqs ∧
      (entryAt y breq0.entry).state = .inflight) := by
  dsimp only
  decide +kernel

/-- A formation, of one entry under consideration too and of one that a fault stops, and none. -/
theorem test_meets_BatchForms :
    (let b := { dueBlk with forming := some form0 };
      Live b ∧ b.forming = some form0 ∧ b.formed = none ∧ b.fault = false ∧ stageFive b form0 = true) ∧
    (let f := { form0 with entries := [(5, ent .ready)], tenants := [(0, { Tenant.cold with state := .active, balance := 9 })] };
      let b := { dueBlk with forming := some f, entries := [(5, ent .ready)] };
      stageFive b f = true ∧ f.entries.Pairwise (fun x y => x.1 ≠ y.1) ∧
      ((candidates b f false (expectedPen f)).map fun k => (k.i, k.fault.isSome)) = [(5, true)]) ∧
    (Live up ∧ up.forming = none) ∧ (let b := { up with formed := some batch0 }; Live b ∧ b.formed.isSome = true) := by
  dsimp only
  decide +kernel

/-- A request without a fault that needs its first page, beside one that a fault stops. -/
theorem test_meets_BatchForms_pages :
    let f := { form0 with
      entries := [(5, ent .ready), (6, ent .ready)], host := [(641, 0x1000), (650, 16)], warn := 90
      regs := [(0x006080, 4), (0x100180, 1)], tenants := [(0, { Tenant.cold with state := .active, balance := 9 })] };
    let b := { dueBlk with forming := some f, entries := [(5, ent .ready), (6, ent .ready)] };
    stageFive b f = true ∧ f.entries.Pairwise (fun x y => x.1 ≠ y.1) ∧
    ((chosen b f false (expectedPen f)).cands.map fun k => (k.i, k.need)) = [(5, 1)] ∧
    (candidates b f false (expectedPen f)).length = 2 := by
  dsimp only
  decide +kernel

theorem test_meets_GuardChecks :
    (let c := { pass .launching with regs := [(0x005008, 1)] };
      Live (running c) ∧ (running c).fault = false ∧ runCtx (running c) = some (0, c) ∧ c.phase = .launching ∧
      draining (running c) = false ∧ rowsPowering (running c) c = false ∧ c.ex.batchSeen = true ∧ guardEn c = true) ∧
    (let c := { pass .launching with regs := [(0x005008, 0)] };
      runCtx (running c) = some (0, c) ∧ draining (running c) = false ∧ guardEn c = false) ∧
    (let c := pass .guard;
      runCtx (running c) = some (0, c) ∧ c.parkReq = false ∧ guardAsked 0 (running c) = false) ∧
    (let c := { pass .guard with regs := [(0x005008, 1)], batch := { batch0 with rows := [⟨none, 0, 0, 3, false⟩] } };
      runCtx (running c) = some (0, c) ∧ guardEn c = true ∧ c.batch.rows ≠ []) := by
  dsimp only
  decide +kernel

/-- GUARD_TIMEOUT of a batch with an entry INFLIGHT, beside a parked pass. -/
theorem test_meets_GuardChecks_back :
    let d := { pass .tiles with parked := true };
    let c := { pass .guard with
      regs := [(0x005008, 1)], batch := { batch0 with rows := [⟨some 5, 0, 0, 0, false⟩], reqs := [breq0] } };
    let b := { running c with ctx1 := some d, entries := [(5, ent .inflight)] };
    runCtx b = some (0, c) ∧ guardEn c = true ∧ c.batch.rows ≠ [] ∧ breq0 ∈ c.batch.reqs ∧ breq0.prev ≠ .done ∧
    (entryAt b 5).state = .inflight ∧ Waits b 1 d ∧ b.pwr.stop = false := by
  dsimp only
  decide +kernel

theorem test_meets_MemoryAnswers :
    (let b := memBlk { xfer0 with len := 128 } [{ acc0 false with beats := 2 }];
      Live b ∧ b.fault = false ∧ accessAt b 1 7 false = some { acc0 false with beats := 2 } ∧
      (b.mem.xfers.find? fun y => y.id = (acc0 false).xfer) = some { xfer0 with len := 128 } ∧ (acc0 false).tries = 0 ∧
      (acc0 false).badErr = none ∧ (acc0 false).badPar = none ∧ [goodBeat] ≠ [] ∧ [goodBeat].all beatOk = true ∧
      (acc0 false).recvd.length + [goodBeat, goodBeat].length = 2 ∧ (acc0 false).recvd.length + [goodBeat].length ≤ 2) ∧
    (∀ k ∈ [0, 1, 6], ∀ t ∈ [0, 1, 2], let b := memBlk { xfer0 with kind := k } [{ acc0 false with tries := t }];
      accessAt b 1 7 false = some { acc0 false with tries := t } ∧ (acc0 false).recvd = [] ∧
      [goodBeat].length = (acc0 false).beats ∧ (t < 2 ∧ k ≤ 1 ∨ (2 ≤ t ∨ 2 ≤ k)) ∧
      [badBeat] = [] ++ badBeat :: [] ∧ ([] : List Beat).all beatOk = true ∧ beatOk badBeat = false) ∧
    (let b := memBlk { xfer0 with write := true } [acc0 true];
      Live b ∧ accessAt b 1 7 true = some (acc0 true) ∧
      (b.mem.xfers.find? fun y => y.id = (acc0 true).xfer) = some { xfer0 with write := true } ∧ (3 : BitVec 2) ≠ 0) ∧
    (accessAt up 3 63 false = none ∧ accessAt up 3 31 true = none) := by
  dsimp only
  decide +kernel

theorem test_meets_RowsAndAdapters :
    (let c := { pass .prologue with rows := [prow infRow] };
      let b := { running c with stores := { up.stores with bank0 := [(16, 1)] } };
      Live b ∧ workCtx b = some (0, c) ∧ mayWork c = true ∧ c.rows[0]? = some (prow infRow) ∧
      (prow infRow).fetched = some infRow ∧ (prow infRow).ready = false ∧ (prow infRow).removed = 0 ∧
      normValues (capCompat c) (capRms c) (bankEps b c.bank) (gains b c.bank)
        (rowElems (capInFmt c) (bankH b c.bank) infRow) = none ∧
      (normValues (capCompat c) (capRms c) (bankEps b c.bank) (gains b c.bank)
        (rowElems (capInFmt c) (bankH b c.bank) (List.replicate 128 0))).isSome = true) ∧
    (let c := pass .prologue; workCtx (running c) = some (0, c) ∧ c.rows[0]? = none ∧ c.adapters = []) ∧
    (∀ k ∈ [0, 1, 2], workCtx (adpBlk k) = some (0, adpPass k) ∧ mayWork (adpPass k) = true ∧ (adpBlk k).fault = false ∧
      (adpPass k).adapters = (0, 0, some []) :: [] ∧ (adpPass k).adpAbsent = [] ∧ chunkIn (adpBlk k) (adpPass k) = true ∧
      (adpPass k).phase = .prologue ∧
      (k < 2 ∨ 2 ≤ (adpPass k).adpStreak) ∧ (adpBlk k).arrays.contains 3 = true) ∧
    2 * panelBytes (adpFmt (adpDesc (adpPass 0).regs 0 0).fmt) <
      adpBytes (adpFmt (adpDesc (adpPass 0).regs 0 0).fmt) (adpDesc (adpPass 0).regs 0 0).r (bankH (adpBlk 0) 0) ∧
    (let c := { adpPass 0 with adpAbsent := [1] }; c.adpAbsent ≠ []) := by
  dsimp only
  decide +kernel

/-- An adapter's run and rows that it reads: a row in the buffer that names it, one that does not, and one adapted already; a
mismatch in such a row, on the first try and the third. -/
theorem test_meets_RowsAndAdapters_rows :
    (∀ k ∈ [0, 2], let c := { adpPass k with
        batch := { batch0 with reqs := [{ breq0 with host := (List.replicate 64 0).set 1 0x200000 }], rows := [⟨some 5, 0, 0, 0, false⟩] }
        order := [0], reqs := [preq0 .idle none], rows := [{ prow [] with ready := true }] };
      let b := { adpBlk k with ctx0 := some c };
      Live b ∧ workCtx b = some (0, c) ∧ mayWork c = true ∧ c.adapters = (0, 0, some []) :: [] ∧ c.adpAbsent = [] ∧
      chunkIn b c = true ∧ ctxOf b 0 = some c ∧ c.rows[0]? = some { prow [] with ready := true } ∧
      namesAdapter c.batch 0 0 ⟨some 5, 0, 0, 0, false⟩ = true ∧ namesAdapter c.batch 0 1 ⟨some 5, 0, 0, 0, false⟩ = false ∧
      adapterReads b c 0 0 0 = true ∧ adapterReads b c 0 0 1 = false ∧ rowEntry c 0 = some 5 ∧
      (breqOf c.batch 5).isSome = true ∧ b.fault = false ∧ (c.adpStreak < 2 ∨ 2 ≤ c.adpStreak)) := by
  dsimp only
  decide +kernel

theorem test_meets_TilePhase :
    (let w : WeightBlk := ⟨0, 0, 3, [], []⟩; let c := { pass .tiles with cbNext := 3, weights := [w] };
      Live (running c) ∧ workCtx (running c) = some (0, c) ∧ mayWork c = true ∧ c.cbNext < tileBlocks c ∧
      c.halves.length < 2 ∧ tileReady (running c) c = true ∧
      blockHere c c.tileT (weightGroup (running c) c) c.cbNext = some w ∧ streamed (running c) c = false ∧
      (⟨15, 7⟩ : BadPanel).q / c.nArr = c.cbNext) ∧
    blockNow (running (pass .tiles)) (pass .tiles) = none ∧ (pass .tiles).halves = [] ∧
    (let c := { pass .tiles with halves := [⟨0, []⟩] }; c.halves = ⟨0, []⟩ :: []) ∧
    (let c := { pass .tiles with cbNext := 4 };
      workCtx (running c) = some (0, c) ∧ c.cbNext = tileBlocks c ∧ c.halves = [] ∧ c.parkReq = false ∧
      c.sharded = false ∧ nextTile (running c) c = none) ∧
    (∀ k ∈ [0, 1, 2, 3], let c := { pass .tiles with streak := k };
      (running c).arrays.contains 3 = true ∧ (running c).fault = false ∧ (c.streak < 2 ∨ 2 ≤ c.streak)) ∧
    ((pass .tiles).rebuild = none ∧
      (∀ k ∈ [0, 1, 2], let c := { pass .tiles with rebuild := some (3, false), rebuilds := k };
        workCtx (running c) = some (0, c) ∧ c.rebuild = some (3, false) ∧ (c.rebuilds < 2 ∨ 2 ≤ c.rebuilds)) ∧
      1 ≠ (pass .tiles).tileG) := by
  dsimp only
  decide +kernel

/-- Tiles of 65 rows: a row in the tile and one off it, the next tile of the chunk, and a tile of the next chunk. -/
theorem test_meets_TilePhase_next :
    nextTile (padBlk 0) (padPass 0) = some (0, 0, 1) ∧ nextTile (padBlk 1) (padPass 1) = some (0, 1, 0) ∧
    (tileIdx (padBlk 1) (padPass 1))[0]? = some 64 ∧ (tileIdx (padBlk 1) (padPass 1)).Nodup ∧
    0 ∉ tileIdx (padBlk 1) (padPass 1) ∧ nextTile chunkBlk chunkPass = some (1, 0, 0) ∧ 1 ≠ chunkPass.chunk := by
  decide +kernel

/-- A tile of one generation row: a column for its lane, and a mismatch in it and off the tile. -/
theorem test_meets_TilePhase_lane :
    (let c := openPass 0;
      let d := { c with phase := .tiles, order := [0], work := [Sel.empty] }; let b := running d;
      Live b ∧ workCtx b = some (0, d) ∧ mayWork d = true ∧ ctxOf b 0 = some d ∧ tileIdx b d = [0] ∧
      d.batch.rows[0]? = some ⟨some 5, 0, 0, 0, false⟩ ∧ d.work[0]? = some Sel.empty ∧
      (breqOf d.batch 5).isSome = true ∧ preqOf d 5 = some (preq0 .idle none) ∧ rowCause d 0 = 0 ∧ d.ex.round = 0 ∧
      rowEntry d 0 = some 5 ∧ (d.rows[0]?).isSome = true ∧ 1 ∉ tileIdx b d ∧ d.streak < 2) ∧
    (let c := openPass 1; let d := { c with phase := .tiles, order := [0], work := [Sel.empty], streak := 2 };
      let b := running d; workCtx b = some (0, d) ∧ 2 ≤ d.streak ∧ b.fault = false ∧ d.ex.round ≠ 0 ∧
      (d.ex.rescan.find? fun w => (decidedIdx d)[w.1]? = some 0) = some (0, 0, 0, negInf)) := by
  dsimp only
  decide +kernel

theorem test_meets_PassParks :
    (∀ p ∈ [Phase.prologue, .tiles, .decide], let c := { pass p with parkReq := true };
      let b := { running c with running := some 1, ctx1 := some (pass .launching) };
      Live b ∧ ((ctxs b).find? fun x => x.2.parkReq && !x.2.parked) = some (0, c) ∧ c.finishTile = false ∧
      (1 ≠ 0 ∧ b.running = some 1)) ∧
    (let c := { pass .tiles with parkReq := true }; let b := { running c with pwr := { up.pwr with stop := true } };
      ((ctxs b).find? fun x => x.2.parkReq && !x.2.parked) = some (0, c) ∧ b.pwr.stop = true) ∧
    (let c := { pass .tiles with parkReq := true };
      ((ctxs (running c)).find? fun x => x.2.parkReq && !x.2.parked) = some (0, c) ∧ (running c).pwr.stop = false ∧
      (running c).running = some 0 ∧ ctxs (running c) = [(0, c)] ∧ (c.sharded && (running c).rdg.halt) = false) ∧
    (let c := { pass .tiles with parkReq := true, finishTile := true };
      ((ctxs (running c)).find? fun x => x.2.parkReq && !x.2.parked) = some (0, c)) := by
  dsimp only
  decide +kernel

theorem test_meets_DecisionStands :
    (let c := pass1 .decide (preq0 .idle none);
      Live (running c) ∧ workCtx (running c) = some (0, c) ∧ mayWork c = true ∧ c.phase = .decide ∧ c.sharded = false ∧
      c.ex.round = 0 ∧ c.reqs[0]? = some (preq0 .idle none) ∧ breqOf c.batch 5 = some breq0 ∧
      openRows c [] (decideAll (running c) c) = []) ∧
    (let c := openPass 0; let b := running c;
      workCtx b = some (0, c) ∧ mayWork c = true ∧ c.phase = .decide ∧ c.sharded = false ∧ c.ex.round = 0 ∧
      (openRows c [] (decideAll b c)).length = 1 ∧ overRows (decideAll b c) ≠ []) ∧
    (let c := openPass 1; let b := running c;
      workCtx b = some (0, c) ∧ mayWork c = true ∧ c.sharded = false ∧ c.ex.round ≠ 0 ∧
      openRows (roundTaken b c).1 (roundTaken b c).2 (decideAll b (roundTaken b c).1) = []) := by
  dsimp only
  decide +kernel

theorem test_meets_DecisionStands_sharded :
    (let c := { pass .decide with sharded := true }; let b := shardBlk 0 (running c);
      Live b ∧ workCtx b = some (0, c) ∧ isSummit b c.bank = true ∧ c.ex.pulling = false ∧ c.ex.toPull = [] ∧
      c.ex.round = 0 ∧ c.ex.parts = []) ∧
    (let c := { pass .decide with sharded := true }; let b := shardBlk 1 (running c);
      workCtx b = some (0, c) ∧ isSummit b c.bank = false ∧ c.ex.round = 0) ∧
    (∀ k ∈ [true, false], let c := { pass .decide with sharded := true, ex := { ex0 with round := 1, counted := k } };
      let b := shardBlk 1 (running c);
      workCtx b = some (0, c) ∧ mayWork c = true ∧ isSummit b c.bank = false ∧ c.ex.round ≠ 0 ∧ c.ex.counted = k) ∧
    (∀ k ∈ [true, false], let b := { up with step := { up.step with genBusy := true }, pwr := { up.pwr with fastOn := k } };
      Live b ∧ b.step.genBusy = true ∧ drawFree b = true ∧ gatedOut b .smp = false ∧ b.pwr.fastOn = k) ∧
    (up.step.genBusy = false ∧ Accepts up .smp 1 (par 1) ∧ bit 1 0 = true) := by
  dsimp only
  decide +kernel

theorem test_meets_CommitPoints :
    (let p := preq0 .idle (some (plan0 [[]])); let c := pass1 .commit p; let b := running c;
      Live b ∧ b.fault = false ∧ committing b 5 = some (0, c, breq0, p, plan0 [[]]) ∧ Machine.held c = false ∧
      cancelState breq0 (entryAt b 5) ≠ .silent ∧ inFault b 0 = false ∧
      countOf (ringHeadReg 0 0) b = 0 ∧ (wr b (tenReg 0 0x190)).toNat = 0 ∧ 1 ≤ ringSize (rc c.regs) 0 0 - 0) ∧
    (let p := preq0 .idle (some (plan0 [[], []])); let c := { pass1 .commit p with regs := [(0x100180, 0)] }; let b := running c;
      committing b 5 = some (0, c, breq0, p, plan0 [[], []]) ∧ ringSize (rc c.regs) 0 0 - 0 < 2 ∧
      (tenantAt b 0).clearPend = false) := by
  dsimp only
  (repeat' apply And.intro) <;> first | decide +kernel | rfl

theorem test_meets_CommitPoints_later :
    (let p := preq0 .idle (some (plan0 [])); let q := { breq0 with prev := .cancelling };
      let c := { pass1 .commit p with batch := { batch0 with reqs := [q] } };
      let b := { running c with entries := [(5, { ent .inflight with cancelDone := true })] };
      committing b 5 = some (0, c, q, p, plan0 []) ∧ Machine.held c = false ∧ cancelState q (entryAt b 5) = .silent) ∧
    (let p := preq0 .idle (some (plan0 [[]])); let c := { pass1 .commit p with parkReq := true };
      committing (running c) 5 = some (0, c, breq0, p, plan0 [[]]) ∧ Machine.held c = true) ∧
    (let p := preq0 .stateRec (some (plan0 [[]])); let c := pass1 .commit p;
      committing (running c) 5 = some (0, c, breq0, p, plan0 [[]])) ∧
    (let p := preq0 .landed (some (plan0 [[]])); let c := pass1 .commit p;
      committing (running c) 5 = some (0, c, breq0, p, plan0 [[]])) ∧
    (let p := preq0 .records (some (plan0 [[]])); let c := pass1 .commit p;
      committing (running c) 5 = some (0, c, breq0, p, plan0 [[]]) ∧ awaiting (.record 0 5) (running c) = false ∧
      inFault (running c) 0 = false ∧
      inFault { running c with tenants := [(0, { Tenant.cold with faultCode := 2 })] } 0 = true) := by
  dsimp only
  (repeat' apply And.intro) <;> first | decide +kernel | rfl

/-- The state record's first access: put on its port, and refused outside the tenant's region. -/
theorem test_meets_CommitPoints_intent :
    let p := preq0 .stateRec (some (plan0 [[]])); let c := pass1 .commit p; let b := running c;
    let x := { xfer0 with write := true, len := 512, tenant := some 0, rights := .unchecked, ctx := some 0, purpose := .stateRec 0 5 };
    committing b 5 = some (0, c, breq0, p, plan0 [[]]) ∧ x.purpose = .stateRec 0 5 ∧ p.stage = .stateRec ∧ p.intent = false ∧
    pagedWaits b x = false ∧ nextPiece x = some (0, 1, 0) ∧ translate b x (beatAddr x 0) = .phys 0 ∧ portFree b x 0 1 = true ∧
    freeTag b (0 / 256 % 4) x.write = some 0 ∧ translate b { x with rights := .tenant 0 } 0 = .refused ∧
    pagedWaits b { x with rights := .tenant 0 } = false := by
  dsimp only
  (repeat' apply And.intro) <;> first | decide +kernel | rfl

theorem test_meets_StepEnds :
    (let c := pass1 .commit { preq0 .committed (some (plan0 [])) with counterOk := true }; let b := running c;
      Live b ∧ b.fault = false ∧
      ((ctxs b).find? fun x => x.2.phase = .commit && !Machine.held x.2 && x.2.reqs.all resolved) = some (0, c) ∧
      ∀ r ∈ c.reqs, r.stage ≠ .silent) ∧
    (let c := pass .ending; ((ctxs (running c)).find? fun x => x.2.phase = .ending && !Machine.held x.2) = some (0, c)) ∧
    (let c := pass .ending; let d := { pass .prologue with parked := true };
      let b := { running c with ctx1 := some d };
      ((ctxs b).find? fun x => x.2.phase = .ending && !Machine.held x.2) = some (0, c) ∧ b.running = some 0 ∧ Waits b 1 d ∧
      b.pwr.stop = false) := by
  dsimp only
  decide +kernel

/-- A step one of whose requests is past its CANCELLED record: in fault and not. -/
theorem test_meets_StepEnds_silent :
    ∀ k ∈ [0, 2], let p := preq0 .silent (some (plan0 [])); let q := { breq0 with prev := .cancelling };
      let c := { pass1 .commit p with batch := { batch0 with reqs := [q] } };
      let b := { running c with tenants := [(0, { Tenant.cold with faultCode := k })] };
      Live b ∧ b.fault = false ∧
      ((ctxs b).find? fun x => x.2.phase = .commit && !Machine.held x.2 && x.2.reqs.all resolved) = some (0, c) ∧
      (ctxOf (silentCommit 0 c q p b) 0).isSome = true ∧ p.stage = .silent ∧ p.plan = some (plan0 []) ∧
      inFault b q.tenant = decide (k ≠ 0) ∧ (plan0 []).efault = 0 ∧ q.prev = .cancelling ∧ (plan0 []).remote = false := by
  dsimp only
  decide +kernel

/-! ## Witnesses: the request table and the spill directory -/

theorem test_meets_EntryCommands :
    cmdOn (ent .ready) 0 (cmdBlk .ready 0) = true ∧ cmdOn (ent .ready) 3 (cmdBlk .ready 3) = true ∧
    cmdOn (ent .blocked) 3 (cmdBlk .blocked 3) = true ∧ tenPriv (cmdBlk .ready 3) 0 = false ∧
    cmdOn (ent .ready) 3 (inForce [(0xFC0000, 2)] (cmdBlk .ready 3)) = true ∧
    tenPriv (inForce [(0xFC0000, 2)] (cmdBlk .ready 3)) 0 = true ∧
    cmdOn (ent .ready) 4 (cmdBlk .ready 4) = true ∧ cmdOn (ent .blocked) 5 (cmdBlk .blocked 5) = true ∧
    tenDraining (cmdBlk .blocked 5) 0 = false ∧
    cmdOn (ent .done) 9 (cmdBlk .done 9) = true ∧ cmdOn (ent .fault) 9 (cmdBlk .fault 9) = true ∧
    cmdOn (ent .fault) 10 (cmdBlk .fault 10) = true ∧
    ([1, 2, 3, 4, 5, 6, 8].all fun k => cmdOn (ent .done) k (cmdBlk .done k)) = true ∧
    ([3, 6, 8].all fun k => cmdOn { ent .done with overtaken := true } k
      (entBlk { ent .done with overtaken := true } (BitVec.ofNat 32 (16 + k)))) = true ∧
    PState.retain ≠ .run ∧ PState.retain ≠ .throttle := by
  dsimp only
  decide +kernel

/-- CHUNK of one position and of 512. -/
theorem test_meets_EntryCommands_chunk :
    ∀ n ∈ [1, 512], cmdOn (ent .ready) 7 (postBlk n) = true ∧ (ent .ready).refine = false ∧ (ent .ready).chunk = none ∧
      tenDraining (postBlk n) 0 = false ∧ 1 ≤ hPchunkN (hostWords (postBlk n) 5) ∧
      hPchunkN (hostWords (postBlk n) 5) ≤ 512 ∧ hPchunkAddr (hostWords (postBlk n) 5) % 4 = 0 := by decide +kernel

/-- CANCEL of a privileged tenant with room in its ring, and with the ring full. -/
theorem test_meets_EntryCommands_ring :
    (let b := inForce [(0xFC0000, 2)] (cmdBlk .ready 3);
      cmdOn (ent .ready) 3 b = true ∧ tenPriv b 0 = true ∧ hRing (hostWords b 5) = 0 ∧ countOf (ringHeadReg 0 0) b = 0 ∧
      (wr b (tenReg 0 0x190)).toNat = 0 ∧ 1 ≤ ringSize (rf b) 0 0 - 0) ∧
    (let k := inForce [(0xFC0000, 2), (0x100180, 0)] (cmdBlk .ready 3);
      let b := { k with reg := { k.reg with counts := [(ringHeadReg 0 0, ringSize (rf k) 0 0)] } };
      cmdOn (ent .ready) 3 b = true ∧ tenPriv b 0 = true ∧ countOf (ringHeadReg 0 0) b = ringSize (rf b) 0 0 ∧
      ringSize (rf b) 0 0 < 2 ^ 32 ∧ (wr b (tenReg 0 0x190)).toNat = 0 ∧ (tenantAt b 0).faultCode = 0 ∧
      (tenantAt b 0).clearPend = false) := by
  dsimp only
  decide +kernel

theorem test_meets_EntryTransfers :
    ∀ k ∈ [1, 2], cmdOn Entry.freed k (admBlk k 0) = true ∧ admitOk (admN (admBlk k 0)) 5 (hostWords (admBlk k 0) 5) = true ∧
      histBytes (hostWords (admBlk k 0) 5) = some 0 ∧ (histBuild (hostWords (admBlk k 0) 5) []).isSome = true ∧
      admitOk (admN (admBlk k 1023)) 5 (hostWords (admBlk k 1023) 5) = false ∧
      admitOk (admN (admBlk k 0x0C000000)) 5 (hostWords (admBlk k 0x0C000000) 5) = true ∧
      histBytes (hostWords (admBlk k 0x0C000000) 5) = none ∧
      admitOk (admN (admBlk k 0x04000000)) 5 (hostWords (admBlk k 0x04000000) 5) = true ∧
      histBytes (hostWords (admBlk k 0x04000000) 5) = some (7 + 1) := by decide +kernel

theorem test_meets_EntryTransfers_ends :
    (∀ st ∈ [EState.ready, .blocked], cmdOn (ent st) 6 (cmdBlk st 6) = true ∧ cmdOn (ent st) 8 (cmdBlk st 8) = true) ∧
    freeDirIdx (cmdBlk .ready 6) = none ∧ freeDirIdx (inForce [(0x0060B4, 16)] (cmdBlk .ready 6)) = some 0 ∧
    (∀ p ∈ [Purpose.hist 5, .importRec 5, .spill 5 3, .fill 5 3, .exportImg 5], ∀ f ∈ [true, false],
      let x := { xfer0 with purpose := p, failed := f }; let b := { up with mem := { up.mem with done := [x] } };
      b.mem.done.filter (ownsXfer b 5) = x :: [] ∧ b.mem.xfers.any (ownsXfer b 5) = false ∧ [x].any (·.failed) = f) ∧
    up.mem.done.filter (ownsXfer up 5) = [] := by
  dsimp only
  decide +kernel

/-- The body of a state record of request 0 in READY. -/
def impBody : List Byte := List.replicate 256 0 ++ 1 :: List.replicate 251 0

/-- A record's check is over its first 508 bytes. -/
theorem record_crc (l : List Byte) (h : l.length = 508) :
    slice (withCrc l) 0 508 = l ∧ numAt (withCrc l) 508 4 = (crc32 l).toNat := by
  have hl : ∀ n, leNat (leBytes 4 n) = n % 2 ^ 32 := by
    intro n
    simp only [leBytes, leNat, BitVec.toNat_ofNat]
    omega
  refine ⟨?_, ?_⟩
  · simp [slice, withCrc, h, List.take_left' h, zeros]
  · have e : slice (withCrc l) 508 4 = leBytes 4 (crc32 l).toNat := by
      simp [slice, withCrc, List.drop_left' h, leBytes, zeros]
    rw [numAt, e, hl, Nat.mod_eq_of_lt (crc32 l).isLt]

/-- A record that an IMPORT of request 0 takes, and one that it does not; a history that builds, and one that does not. -/
theorem test_meets_EntryTransfers_import :
    importOk (List.replicate 64 0) (withCrc impBody) = true ∧
    importOk ((List.replicate 64 0).set 4 1) (withCrc impBody) = false ∧
    estateOf (numAt (withCrc impBody) 0x100 4 % 16) = some .ready ∧ (histBuild (List.replicate 64 0) []).isSome = true ∧
    histBuild ((List.replicate 64 0).set 1 0x04000000) [255, 255, 255, 255] = none := by
  have h := record_crc impBody (by decide +kernel)
  refine ⟨?_, ?_, by decide +kernel, by decide +kernel, by decide +kernel⟩ <;> unfold importOk <;> rw [h.1, h.2] <;>
    simp only [decide_true, Bool.true_and] <;> decide +kernel

theorem test_meets_DirectoryCommands :
    dirOn .spReady 3 = true ∧ dirOn .spBlocked 3 = true ∧ dirOn .paused 3 = true ∧ dirOn .spReady 4 = true ∧
    dirOn .spBlocked 5 = true ∧ dirOn .paused 7 = true ∧ dirOn .paused 9 = true ∧
    ([3, 4, 5, 7, 9].all fun k => dirOn .free k) = true ∧ spilled (spl .spReady) = true ∧
    (let b := { up with count := some 40, dir := [(3, { spl .paused with expiry := some 0 })] };
      expired b 3 = true ∧ scansRun b = true) ∧
    expired up 3 = false ∧ (let b := pw fun w => { w with state := .drain }; Live b ∧ scansRun b = false) := by
  dsimp only
  decide +kernel

/-! ## Witnesses: the Ridge port -/

theorem test_meets_RidgeFrames :
    (let f := frame 2 0 1 1 0 [];
      up.testMode = false ∧ up.pwr.rstLow = false ∧ gateOf up .rdg = .running ∧ rxFull up = false ∧
      frameEarly up (rxOf f) = false ∧
      frameCorrupt f ⟨f.map bytePar, true⟩ = true ∧ frameCorrupt f ⟨[], false⟩ = true ∧ frameCorrupt f (clean f) = false) ∧
    (let b0 := rdgBlk 1 (spass .decide ex0) [held 0 2 0 []];
      let b := { b0 with rdg := { b0.rdg with kept := [⟨1, 1, 0, 0, 0, []⟩] } };
      gateOf b .rdg = .running ∧ frameForeign b (frame 2 1 1 1 0 []) = true ∧
      frameForeign b (frame 2 0 1 2 0 []) = false ∧ frameAhead b (rxOf (frame 2 0 1 2 0 [])) = true ∧
      frameForeign b (frame 2 0 1 1 0 []) = false ∧ frameAhead b (rxOf (frame 2 0 1 1 0 [])) = false ∧
      b.rdg.rx.any (sameFrame (rxOf (frame 2 0 1 1 0 []))) = true ∧
      frameForeign b (frame 7 0 1 1 0 []) = false ∧ b.rdg.ended.contains 1 = false ∧
      b.rdg.rx.any (sameFrame (rxOf (frame 7 0 1 1 0 []))) = false ∧
      (0, 7, 1, 0) ∉ b.rdg.taken ∧ (rxOf (frame 7 0 1 1 0 [])).step = 1 ∧
      (let r := rxOf (frame 7 0 1 1 0 []); (r.src, r.kind, r.step, r.round) = (0, 7, 1, 0)) ∧
      numAt (frame 7 0 1 1 0 []) 24 4 = (bankEpoch b 0).toNat ∧ batchDiffers b (rxOf (frame 7 0 1 1 0 [])) = false ∧
      numAt (frame 7 0 1 1 9 []) 24 4 ≠ (bankEpoch b 0).toNat) ∧
    (let b := rdgBlk 1 (spass .decide ex0) [];
      let e := { b with rdg := { b.rdg with ended := [1] } };
      (ctxOfStep b 1 = some (0, spass .decide ex0)) ∧
      batchDiffers { b with rdg := { b.rdg with kept := [⟨1, 1, 0, 0, 0, [1]⟩] } } (rxOf (frame 7 0 1 1 0 [])) = true ∧
      e.rdg.ended.contains 1 = true ∧ nakKept e (rxOf (frame 7 0 1 1 0 [])) = false) ∧
    (let b0 := rdgBlk 1 (spass .decide ex0) [];
      let b := { b0 with ctx0 := none, rdg := { b0.rdg with seen := some 1 } };
      ctxOfStep b 1 = none ∧ (∀ k ∈ [2, 4, 7], frameForeign b (frame k 0 1 1 0 []) = false ∧
        frameAhead b (rxOf (frame k 0 1 1 0 [])) = false ∧ batchDiffers b (rxOf (frame k 0 1 1 0 [])) = false) ∧
      batchDiffers { b with rdg := { b.rdg with kept := [⟨1, 1, 0, 0, 0, [1]⟩] } } (rxOf (frame 7 0 1 1 0 [])) = true) := by
  dsimp only
  decide +kernel

/-- A buffer with 16 bytes free, one that is full, and frames held early in it. -/
theorem test_meets_RidgeFrames_full :
    (gateOf nearBlk .rdg = .running ∧ rxFull nearBlk = false ∧
      frameEarly nearBlk (rxOf (frameAt 1 2 3 1 0 1 0 [])) = true ∧
      frameCorrupt (frameAt 1 2 3 1 0 1 0 []) (clean (frameAt 1 2 3 1 0 1 0 [])) = false ∧
      65536 < rxUsed nearBlk + (frameAt 1 2 3 1 0 1 0 []).length) ∧
    (gateOf fullBlk .rdg = .running ∧ rxFull fullBlk = true) ∧
    (Live nearBlk ∧ ((nearBlk.rdg.rx.filter (frameEarly nearBlk))[15]?).isSome = true ∧
      (nearBlk.rdg.rx.filter (frameEarly nearBlk))[16]? = none) := by decide +kernel

theorem test_meets_RidgeExchange :
    (let c := spass .launching { ex0 with batchSeen := false }; let b := rdgBlk 1 c [held 0 1 0 (List.replicate 16 0)];
      Live b ∧ b.fault = false ∧ gateOf b .rdg = .running ∧ (peerCtx b fun c => !c.ex.batchSeen) = some (0, c) ∧
      senderOf b 1 c.num 0 = some (0, List.replicate 16 0) ∧ decide (numAt (List.replicate 16 0) 4 1 = 1) = c.refine ∧
      (List.range (numAt (List.replicate 16 0) 8 2)).map (batchCand b c.regs c.refine (List.replicate 16 0)) =
        ([] : List Cand).map some ∧
      (layout [] []).length = numAt (List.replicate 16 0) 6 2) ∧
    (let c := spass .decide ex0; let b := rdgBlk 1 c [held 0 2 0 []];
      (b.rdg.rx.find? fun f => f.kind = 2) = some (held 0 2 0 []) ∧ ctxOfStep b 1 = some (0, c) ∧
      isSummit b c.bank = false ∧ pullReady c 0 = true ∧ ctxOfStep { b with ctx0 := none } 1 = none) ∧
    (let c := spass .tiles ex0; pullReady c 0 = false ∧ c.ex.round = 0) ∧
    (let c := spass .decide { ex0 with toPull := [1], pulling := true };
      let pl := leBytes 4 0 ++ leBytes 4 7 ++ leBytes 4 7 ++ leBytes 4 0;
      let b := { rdgBlk 0 c [held 1 3 0 pl] with stores := { up.stores with bank0 := [(32, 0x100), (35, 7)] } };
      pullingOf b 1 = some (0, c) ∧ c.ex.round = 0 ∧ wholeMsg b 1 3 c.num 0 = some pl ∧ sliceOk b c 1 pl = true) ∧
    (let c := spass .decide { ex0 with toPull := [1], pulling := true, round := 1 }; let b := rdgBlk 0 c [held 1 6 1 []];
      pullingOf b 1 = some (0, c) ∧ c.ex.round ≠ 0 ∧ wholeMsg b 1 6 c.num 1 = some []) := by
  dsimp only
  decide +kernel

theorem test_meets_RidgeExchange_peer :
    (∀ k ∈ [0, 1], let c := spass .decide { ex0 with round := k }; let b := rdgBlk 1 c [held 0 5 (k + 1) [], held 0 7 0 []];
      Live b ∧ (peerCtx b fun c => c.phase = .decide && !c.parkReq && !c.parked) = some (0, c) ∧
      senderOf b 5 c.num (c.ex.round + 1) = some (0, []) ∧ (c.ex.round = 0 ∨ c.ex.round ≠ 0) ∧
      (peerCtx b fun c => c.phase = .decide && c.ex.batchSeen) = some (0, c) ∧ senderOf b 7 c.num 0 = some (0, [])) ∧
    (let b := { rdgBlk 0 (spass .decide ex0) [held 1 4 0 [1]] with
        rdg := { up.rdg with rx := [held 1 4 0 [1]], kept := [⟨1, 1, 0, 0, 0, [2]⟩] } };
      (b.rdg.rx.find? fun f => f.kind = 4 && f.src = 1) = some (held 1 4 0 [1]) ∧
      keptMsg b (numAt [1] 0 1) 1 = some ⟨1, 1, 0, 0, 0, [2]⟩) := by
  dsimp only
  decide +kernel

/-- A COMMIT of one request, OUTCOME 0 and 1, a natural stop, an entry fault and neither. -/
theorem test_meets_RidgeExchange_commit :
    ∀ z ∈ [(0, 0), (0, 1), (0, 2), (1, 0)],
      let c := { pass1 .decide (preq0 .idle none) with sharded := true };
      let bs := zeros 20 ++ [z.1] ++ zeros 4 ++ [z.2] ++ zeros 10;
      let b := rdgBlk 1 c [held 0 7 0 bs];
      Live b ∧ (peerCtx b fun c => c.phase = .decide && c.ex.batchSeen && !c.parkReq && !c.parked) = some (0, c) ∧
      senderOf b 7 c.num 0 = some (0, bs) ∧ c.batch.reqs = [] ++ breq0 :: [] ∧
      c.batch.reqs.Pairwise (fun x y => x.entry ≠ y.entry) ∧ (preqOf c breq0.entry).isSome = true ∧
      (let r := readCommitRec bs 16 (capWords breq0);
        r.code = z.1.toNat ∧ r.stop = decide (z.2 = 1) ∧ r.fault = decide (z.2 = 2)) := by
  simp only [List.forall_mem_cons]
  refine ⟨?_, ?_, ?_, ?_, nofun⟩ <;> refine ⟨?_, ?_, ?_, ?_, ?_, ?_, ?_⟩ <;> decide +kernel

/-- A PULL of a round that is over, one of a round to come, and one that reaches a Summit. -/
theorem test_meets_RidgeExchange_pulls :
    (let c := spass .decide { ex0 with round := 1 }; let b := rdgBlk 1 c [held 0 2 2 [], held 0 2 0 []];
      pullWaits b (held 0 2 2 []) = true ∧
      (b.rdg.rx.find? fun f => f.kind = 2 && !pullWaits b f) = some (held 0 2 0 []) ∧
      ctxOfStep b 1 = some (0, c) ∧ (held 0 2 0 []).round < c.ex.round ∧
      ∀ f ∈ [held 0 2 2 []], f.kind = 2 → pullWaits b f = true) ∧
    (let c := spass .decide ex0; let b := rdgBlk 0 c [held 1 2 0 []];
      (b.rdg.rx.find? fun f => f.kind = 2 && !pullWaits b f) = some (held 1 2 0 []) ∧ isSummit b c.bank = true) := by
  dsimp only
  decide +kernel

/-- R326, R327: a pass that drains expects nothing, so the BATCH of the step that pre-empts it is asked for. -/
theorem test_draining_expects :
    let c := { spass .tiles ex0 with parkReq := true };
    let d := { spass .launching { ex0 with batchSeen := false } with num := 2 };
    let b := { rdgBlk 1 c [] with ctx1 := some d };
    ((ctxs b).find? fun c => (expecting b c.2).isSome) = some (1, d) ∧ expecting b d = some (0, 1, 0) := by
  dsimp only
  decide +kernel

theorem test_meets_RidgeFaults :
    (let c := spass .tiles ex0; let b := rdgBlk 1 c [held 0 8 0 [0, 1]];
      Live b ∧ gateOf b .rdg = .running ∧
      (peerCtx b fun c => beforeCommit c && (senderOf b 8 c.num 0).isSome) = some (0, c) ∧
      senderOf b 8 c.num 0 = some (0, [0, 1])) ∧
    (let c := spass .decide { ex0 with toPull := [1], pulling := true }; let b := rdgBlk 0 c [held 1 9 0 [], held 1 3 0 [9]];
      pullingOf b 1 = some (0, c) ∧ wholeMsg b 1 9 c.num 0 = some [] ∧ c.ex.round = 0 ∧
      wholeMsg b 1 3 c.num 0 = some [9] ∧ sliceOk b c 1 [9] = false ∧
      ((ctxs b).find? fun c => (expecting b c.2).isSome) = some (0, c) ∧ expecting b c = some (1, 3, 0) ∧
      heldWhole b c 1 3 0 = true) := by
  dsimp only
  decide +kernel

/-- A wait of the Summit and of a peer: with NAKs left and none, no frame or the later of two held, and RETRIES 0. -/
theorem test_meets_RidgeFaults_waits :
    (∀ n ∈ [0, 4], ∀ l ∈ [[], [{ held 1 3 0 [] with fcount := 2 }]],
      let c := spass .decide { ex0 with toPull := [1], pulling := true, naks := n }; let b := rdgBlk 0 c l;
      ((ctxs b).find? fun c => (expecting b c.2).isSome) = some (0, c) ∧ expecting b c = some (1, 3, 0) ∧
      isSummit b c.bank = true ∧ heldWhole b c 1 3 0 = false ∧ (c.ex.naks < retries c ∨ (retries c ≤ c.ex.naks ∧ 0 < c.ex.naks)) ∧
      waitLapsed b c 1 3 0 = l.isEmpty) ∧
    (∀ l ∈ [[], [{ held 0 7 0 [] with fcount := 2 }]],
      let c := { spass .decide ex0 with regs := [(0x00C09C, 0)] }; let b := rdgBlk 1 c l;
      retries c = 0 ∧ c.ex.naks = 0 ∧ expecting b c = some (0, 7, 0) ∧ waitLapsed b c 0 7 0 = l.isEmpty ∧
      heldWhole b c 0 7 0 = false) := by
  dsimp only
  decide +kernel

theorem test_meets_RidgeFaults_any :
    (∀ a ∈ [true, false], ∀ l ∈ [[], [{ held 0 7 0 [] with fcount := 2 }]],
      let c := spass .decide { ex0 with naks := 15, anyNak := a }; let b := rdgBlk 1 c l;
      ((ctxs b).find? fun c => (expecting b c.2).isSome) = some (0, c) ∧ expecting b c = some (0, 7, 0) ∧
      heldWhole b c 0 7 0 = false ∧ isSummit b c.bank = false ∧ retries c ≤ c.ex.naks ∧ 0 < c.ex.naks ∧ c.ex.anyNak = a ∧
      waitLapsed b c 0 7 0 = l.isEmpty) := by
  dsimp only
  decide +kernel

/-! ## Witnesses: the sealed meter -/

theorem test_meets_StrobesCount :
    Island.fresh.on = true ∧
    takeStrobe 0 isIntent [.intent 1023 1 2 3 4] = some (.intent 1023 1 2 3 4, []) ∧
    takeStrobe 0 isConfirm [.count 1 0, .confirm 0 1 2 3 4] = some (.confirm 0 1 2 3 4, [.count 1 0]) ∧
    takeStrobe 0 isCancel [.cancel 0 1 2 3 4] = some (.cancel 0 1 2 3 4, []) ∧
    takeStrobe 0 isDiscard [.discard 0 5] = some (.discard 0 5, []) ∧
    takeStrobe 0 isStepRows [.stepRows 0 5] = some (.stepRows 0 5, []) ∧
    takeStrobe 0 isIdle [.idle] = some (.idle, []) ∧
    takeStrobe 1 isCount [.idle, .count 7 1] = some (.count 7 1, [.idle]) ∧
    takeStrobe 2 isClock [.clock false] = some (.clock false, []) ∧
    takeStrobe 2 isClock [.clock true] = some (.clock true, []) := by decide +kernel

/-- The largest rail readings of the default gains that R423 takes. -/
theorem test_meets_StrobesCount_idle :
    (let g := Island.fresh.cal; ∀ r ∈ [(⟨0, 0, 0⟩ : Rails), ⟨4294967295, 4294967295, 4294967295⟩],
      r.cmp * g.gainCmp < 2 ^ 64 ∧ r.base * g.gainBase < 2 ^ 64 ∧ r.sram * g.gainSram < 2 ^ 64) := by decide +kernel

theorem test_meets_OpenDropAndBadStrobes :
    takeStrobe 0 isOpenDrop [.openDrop] = some (.openDrop, []) ∧
    takeStrobe 0 isOpenDrop [.rstDrop] = some (.rstDrop, []) ∧
    takeStrobe 1 isCount [.count 7 1] = some (.count 7 1, []) ∧ Strobe.count 7 1 ≠ .rstDrop ∧
    takeStrobe 0 isStepEnd [.stepEnd 1 true] = some (.stepEnd 1 true, []) := by decide +kernel

theorem test_meets_StepEndAttributes :
    MeterInv Island.fresh ∧ MeterInv { Island.fresh with rowTab := [(0, 1), (3, 2)] } ∧
    takeStrobe 0 isStepEnd [.stepEnd 1 true] = some (.stepEnd 1 true, []) ∧
    takeStrobe 0 isStepEnd [.stepEnd 1 false] = some (.stepEnd 1 false, []) ∧
    0 < (({ Island.fresh with rowTab := [(0, 1), (3, 2)] } : Island).rowTab.map (·.2)).sum ∧
    (Island.fresh.rowTab.map (·.2)).sum = 0 ∧
    9000000 * Island.fresh.cal.gainCmp < 2 ^ 64 ∧
    (∀ x ∈ [(0, 1), (3, 2)], 40960937 * x.2 < 2 ^ 64) := by
  refine ⟨Laws.fresh_inv, ?_, by decide, by decide, by decide, by decide, by decide, by decide⟩
  have h := Laws.fresh_inv
  unfold MeterInv at h ⊢
  obtain ⟨a, -, c, d, e, f, g, k, l, m, -⟩ := h
  exact ⟨a, by decide, c, d, e, f, g, k, l, m, fun o => by cases o⟩

theorem test_meets_SealAndPower :
    (mk up).blk.pwr.state ≠ .offReady ∧ (Island.fresh.on = true ∧ Island.fresh.sk = .open ∧ Island.fresh.load = []) ∧
    (let i := { Island.fresh with sk := .loading, load := load79 };
      i.on = true ∧ i.sk = .loading ∧ i.load.length = 79 ∧
      (calibOf ((i.load ++ [load80]).drop 16)).isSome = true ∧
      calibOf ((i.load ++ [load80 + 1]).drop 16) = none) ∧
    (∀ n ∈ [0, 78, 80], let i := { Island.fresh with sk := .loading, load := List.replicate n 0 };
      i.on = true ∧ i.sk = .loading ∧ i.load.length ≠ 79) ∧
    (∀ k ∈ [SkState.sealed, .bad], ({ Island.fresh with sk := k } : Island).sk = k) ∧
    up.pwr.pgMtr = true ∧ (pw fun w => { w with pgMtr := false }).pwr.pgMtr = false ∧ up.pwr.rstLow = false := by
  dsimp only
  decide +kernel

theorem test_meets_RecordsAreSent :
    (∀ k ∈ [SkState.sealed, .bad], let i := { Island.fresh with triggers := 1, sk := k };
      i.on = true ∧ 0 < i.triggers ∧ i.sending = none ∧ i.sk = k) ∧
    ({ Island.fresh with sending := some [1] } : Island).sending = some [1] ∧
    (up.pwr.state ≠ .offReady ∧ up.pwr.rstLow = false) ∧ (pw fun w => { w with rstLow := true }).pwr.rstLow = true ∧
    (pw fun w => { w with state := .offReady }).pwr.state = .offReady := by
  dsimp only
  decide +kernel

/-- A state that meets the invariant of the island and steps. -/
theorem test_meets_MeterInvKept :
    MeterInv (strobed [.discard 0 5]).isl ∧
    step { strobed [.discard 0 5] with pending := [.discard false] } =
      .next { strobed [] with isl := counted (tenMod Island.fresh 0 fun m => { m with discard := 5 }) } :=
  ⟨Laws.fresh_inv, rfl⟩

theorem test_meets_MeterNeverLowered :
    MeterInv (strobed [.discard 0 5]).isl ∧
    (after (.discard false) (strobed [.discard 0 5])).isSome = true ∧
    ([.discard false] : List Instr).head? ≠ some .pgMtrFall ∧ ([.discard false] : List Instr).head? ≠ some .pgMtrRise :=
  ⟨Laws.fresh_inv, rfl, by decide, by decide⟩

/-! ## Witnesses: the block and its memory ports -/

/-- A block with one queued launch, and the state that takes a count word next. -/
theorem test_meets_BlockInvKept :
    BlockInv { up with launchQ := [⟨7, false, false, none⟩] } ∧
    (after .mcSyncRiseInWord (mk { up with launchQ := [⟨7, false, false, none⟩] })).isSome = true := by
  have hf : ∀ a, FitsReg a (resetVal a) := by
    intro a x hx
    simp [resetVal, hx]
  refine ⟨⟨by decide, by simp, ⟨by decide, by decide, by decide, by decide, by decide, by decide, hf, hf⟩,
    ⟨by decide, by decide, by decide, by decide, by decide, by decide, by decide, by decide, by decide⟩,
    by decide, by decide, by decide, by decide, by decide, by decide, by decide⟩, by decide⟩

/-- A block with the only access of its only transfer outstanding, and its answer. -/
def portBlk : Block :=
  let b := memBlk { xfer0 with addr := 256, purpose := .guard 0 } [{ acc0 false with phys := 256 }]
  { b with mem := { b.mem with nextId := 1 } }

theorem test_meets_PortInvKept :
    PortInv portBlk.mem ∧ (after (.memReadResponse 1 7 [goodBeat] true 0) (mk portBlk)).isSome = true := by
  constructor
  · unfold PortInv AccessOk
    decide +kernel
  · decide +kernel

/-- The last answer of a read and of a write. -/
theorem test_meets_TransfersHandOver :
    (let a := { acc0 false with phys := 256 }; let x := { xfer0 with addr := 256, purpose := .guard 0 };
      Live portBlk ∧ portBlk.fault = false ∧ portBlk.mem.xfers = [x] ∧ portBlk.mem.access = [a] ∧
      portBlk.mem.done = [] ∧ a.xfer = x.id ∧ a.port = 1 ∧ a.tag = 7 ∧ stays x = false ∧
      x.ended + a.beats = xferBeats x ∧ a.write = false ∧ a.tries = 0 ∧ a.badErr = none ∧ a.badPar = none ∧
      [goodBeat] ≠ [] ∧ [goodBeat].all beatOk = true ∧ a.recvd.length + [goodBeat].length = a.beats) ∧
    (let x := { xfer0 with write := true, purpose := .doneCounter 0 }; let b := memBlk x [acc0 true];
      b.mem.xfers = [x] ∧ b.mem.access = [acc0 true] ∧ b.mem.done = [] ∧ (acc0 true).xfer = x.id ∧
      stays x = false ∧ x.ended + (acc0 true).beats = xferBeats x ∧ (acc0 true).write = true ∧ (acc0 true).beats = 1) := by
  dsimp only
  decide +kernel

/-- Each purpose, read or written well and, where a clause says so, failed. -/
theorem test_meets_TransfersHandOver_purposes :
    (let c := pass .guard; let y := { xfer0 with purpose := .guard 0, len := 8 };
      ctxOf (running c) 0 = some c ∧ y.purpose = .guard 0 ∧ y.failed = false ∧ c.phase = .guard ∧ c.parkReq = false ∧
      c.num ≤ leNat (xferBytes { y with got := [(0, 1)] }) ∧ leNat (xferBytes y) < c.num) ∧
    (let c := { pass .prologue with rows := [{ prow [] with fetched := none }] };
      ctxOf (running c) 0 = some c ∧ c.rows[0]? = some { prow [] with fetched := none } ∧
      ({ prow [] with fetched := none } : PRow).removed = 0) ∧
    (let w : WeightBlk := ⟨0, 0, 0, [], [(0, 0)]⟩; let c := { pass .tiles with weights := [w] };
      ctxOf (running c) 0 = some c ∧ c.phase = .tiles ∧ c.weights = [w] ∧ w.t = 0 ∧ w.g = 0 ∧ w.cb = 0) ∧
    (let c := pass .doneWrite; ctxOf (running c) 0 = some c ∧ c.sharded = false) ∧
    (let c := { pass .doneWrite with sharded := true, batch := { batch0 with rows := [⟨some 5, 0, 0, 0, false⟩] } };
      ctxOf (shardBlk 0 (running c)) 0 = some c ∧ isSummit (shardBlk 0 (running c)) c.bank = true ∧ c.batch.rows ≠ [] ∧
      isSummit (shardBlk 1 (running c)) c.bank = false) ∧
    (∀ st ∈ [CStage.records, .stateRec], let p := preq0 st (some (plan0 [[]])); let c := pass1 .commit p;
      ctxOf (running c) 0 = some c ∧ breqOf c.batch 5 = some breq0 ∧ preqOf c 5 = some p ∧
      p.plan = some (plan0 [[]]) ∧ p.stage = st ∧ inFault (running c) 0 = false ∧
      inFault { running c with tenants := [(0, { Tenant.cold with faultCode := 2 })] } 0 = true) := by
  dsimp only
  decide +kernel

end Sys2Proof.Tests
end

section
/-! What a write of a table window does (O10): where an accepted write lands, and for each window the block it leaves. -/

namespace Sys2Proof.Proofs

open Machine Claims Laws

variable {s : State} {b : Block} {a : BitVec 24} {v : Win} {g : Page} {d : Word} {p : BitVec 4} {off k size : Nat}

/-! ## Acceptance -/

/-- Window `v` takes a write: the SRAM is clear, the repair map applied unless `v` is its own window, and no owner of `v`
gated (R438, R469). -/
def WindowTakes (b : Block) (v : Win) : Prop :=
  FrontOpen b ∧ b.sramInit = false ∧ (b.cfg.repairDone = true ∨ v = .repair) ∧
  ∀ g, winOwner v = some g → gatedOut b g = false

/-- An access to a window that takes it reaches the window. -/
theorem targetWin_takes (h : WindowTakes b v) : targetWin v off false b = .win v off := by
  obtain ⟨-, hi, hr, ho⟩ := h
  have hm : b.cfg.repairDone = false → v = .repair := fun h => by simpa [h] using hr
  unfold targetWin
  cases hv : winOwner v with
  | none => simpa [hi] using hm
  | some g => simpa [hi, ho g hv] using hm

/-- A window that takes a write has its effect and an OKAY. -/
theorem does_windowWrite (h : WindowTakes s.blk v) (ha : a.toNat % 4 = 0) (hl : 0x500000 ≤ a.toNat)
    (hw : winAt (apertureSel s.blk) a.toNat = some (v, off)) (hp : p.toNat = parBits 4 d.toNat) :
    Does (.tableWindowWrite a d p) s (okay (winWrite v off d s.blk)) := by
  have hb : wparOk d p = true := by simp [wparOk, hp]
  obtain ⟨⟨ht, hr, hf⟩, -⟩ := id h
  have hT : target a.toNat true (!wparOk d p) s.blk = .win v off := by
    simp [target, hf, ha, Nat.not_lt.2 hl, hw, hb, targetWin_takes h]
  rw [Does, exec_tableWindowWrite, portCommand_next _ _ _ ht, portWrite_win hr hT]
  rfl

/-! ## The request table and the directory -/

/-- Words 0x09C to 0x0FC of an entry have no bit that takes a value (R250). -/
theorem hostMask_reserved {k : Nat} (h : 0x27 ≤ k) : hostMask k = 0 := by
  unfold hostMask
  split
  case h_13 => exact if_neg (by omega)
  all_goals omega

theorem winWrite_host (h : off % 512 < 256) : winWrite .reqTable off d b =
    { b with host := tset zeroWord b.host (off / 4) (d &&& hostMask (off % 512 / 4)) } := if_pos h

theorem winWrite_host_reserved (h1 : 0x09C ≤ off % 512) (h2 : off % 512 < 256) :
    winWrite .reqTable off d b = { b with host := tset zeroWord b.host (off / 4) 0 } := by
  rw [winWrite_host h2, hostMask_reserved (by omega), show d &&& 0 = 0 from BitVec.and_zero]

theorem winWrite_blockRegion (h : 256 ≤ off % 512) : winWrite .reqTable off d b = flagRaise .req 0 b :=
  if_neg (by omega)

theorem winWrite_dir_unused (h : spillN b ≤ off / 16) : winWrite .dir off d b = b := if_pos h

theorem winWrite_dir_command (h : off / 16 < spillN b) (h0 : off % 16 = 0) : winWrite .dir off d b =
    { b with dirHost := tset zeroWord b.dirHost (off / 16) (d &&& 0xFFF) } := by
  simp [winWrite, dirMask, Nat.not_le.2 h, h0]

theorem winWrite_dir_locked (h : off / 16 < spillN b) (h0 : off % 16 ≠ 0) :
    winWrite .dir off d b = flagRaise .req 0 b := by
  simp [winWrite, Nat.not_le.2 h, h0]

/-! ## The configuration banks -/

theorem winWrite_bank_locked (h : bankLocked b (off / 0x100000) = true) :
    winWrite .config off d b = flagRaise .cfg 11 b := if_pos h

/-- A word of an unlocked view lands in the bank that is not active, whose image is no longer valid (R447). -/
theorem winWrite_bank (h : bankLocked b (off / 0x100000) = false) (hact : b.cfg.active < 2) :
    ∃ t : Block, winWrite .config off d b = t ∧ t.cfg = { b.cfg with idleValid := false } ∧
      bankWord t (1 - b.cfg.active) (off % 0x100000) = d ∧
      bankWords t b.cfg.active = bankWords b b.cfg.active ∧
      t = { b with
        cfg := t.cfg
        stores := { b.stores with bank0 := t.stores.bank0, bank1 := t.stores.bank1 } } := by
  refine ⟨_, rfl, ?_⟩
  have hw : winWrite .config off d b = bankWrite off d b := rfl
  have h01 : b.cfg.active = 0 ∨ b.cfg.active = 1 := by omega
  rw [hw, bankWrite]
  rcases h01 with h0 | h1
  · simp [h, h0, setStores, bankWord, bankWords, tget_tset_self]
  · simp [h, h1, setStores, bankWord, bankWords, tget_tset_self]

/-! ## Policy records -/

/-- A register that keeps its value when it refuses a word. -/
def RefusesWhole (x : RwDef) : Prop :=
  ∀ (rd : Nat → Word) (old w : Word), (x.merge rd old w).2 = true → (x.merge rd old w).1 = old

theorem refusesWhole_plain (st : Bool) (mask rst : Word) : RefusesWhole (plain st mask rst) := nofun

/-- One condition that decides between taking a word and keeping the old one. -/
theorem refusesWhole_ite (st : Bool) (rst : Word) (c : (Nat → Word) → Word → Prop) [∀ rd n, Decidable (c rd n)]
    (f : Word → Word) : RefusesWhole ⟨st, rst, fun rd o n => if c rd n then (f n, false) else (o, true)⟩ := by
  intro rd o n
  dsimp only
  split
  · exact nofun
  · exact fun _ => rfl

theorem refusesWhole_whole (st : Bool) (mask rst : Word) (ok : Word → Bool) : RefusesWhole (whole st mask rst ok) :=
  refusesWhole_ite st rst (fun _ n => ok n = true) (· &&& mask)

/-- A policy register that refuses a word keeps its value (R278). -/
theorem tpolDef_refusesWhole {n o : Nat} {x : RwDef} (hx : tpolDef n o = some x) : RefusesWhole x := by
  unfold tpolDef at hx
  split at hx <;> cases hx
  · exact refusesWhole_whole _ _ _ _
  · exact refusesWhole_whole _ _ _ _
  · exact refusesWhole_whole _ _ _ _
  · exact refusesWhole_ite true 0 (fun rd w => bits w 15 0 + bits (rd (tpolReg n 0x14)) 16 0 ≤ 65536) (· &&& 0xFFFF)
  · exact refusesWhole_ite true 0 (fun rd w => bits w 16 0 + bits (rd (tpolReg n 0x10)) 15 0 ≤ 65536) (· &&& 0x1FFFF)
  · exact refusesWhole_plain _ _ _
  · exact refusesWhole_plain _ _ _

/-- The registers of the policy window are those of the tenants' records. -/
theorem rwDef_policy (h : off < 0x10000) : rwDef (0xFC0000 + off) = tpolDef (off / 0x40) (off % 0x40) := by
  have hb : (decide (0xFC0000 ≤ 0xFC0000 + off) && decide (0xFC0000 + off < 0xFD0000)) = true := by
    simp only [Bool.and_eq_true, decide_eq_true_eq]
    omega
  have ho : (0xFC0000 + off) % 0x40 = off % 0x40 := by omega
  rw [rwDef, if_pos hb, Nat.add_sub_cancel_left, ho]

theorem winWrite_policy {x : RwDef} {r : Word × Bool} (h : off % 0x40 ≠ 0x0C) (hx : rwDef (0xFC0000 + off) = some x)
    (hr : r = x.merge (wr b) (wr b (0xFC0000 + off)) d) : winWrite .policy off d b =
      if r.2 then flagRaise (.ten (off / 0x40)) 4 (setWr (0xFC0000 + off) r.1 b)
      else markStale (setWr (0xFC0000 + off) r.1 b) := by
  simp [winWrite, policyWrite, h, hx, rwWrite, hr]

/-- A register of a policy record takes its word and marks a batch formed in advance, or keeps its value and raises
POLICY_BAD (R278, R279). -/
theorem winWrite_policy_takes {x : RwDef} {r : Word × Bool} (hlt : off < 0x10000) (h : off % 0x40 ≠ 0x0C)
    (hx : rwDef (0xFC0000 + off) = some x) (hr : r = x.merge (wr b) (wr b (0xFC0000 + off)) d) :
    ∃ t : Block, winWrite .policy off d b = t ∧
      (∀ k, wr t k = if k = 0xFC0000 + off ∧ r.2 = false then r.1 else wr b k) ∧
      t = { b with reg := { b.reg with
        written := t.reg.written, flags := t.reg.flags, stale := b.reg.stale || !r.2 } } ∧
      t.reg.flags = (if r.2 then (flagRaise (.ten (off / 0x40)) 4 b).reg.flags else b.reg.flags) := by
  have hwr : ∀ k, wr (setWr (0xFC0000 + off) r.1 b) k = if k = 0xFC0000 + off then r.1 else wr b k :=
    tget_tset resetVal _ _ _
  refine ⟨_, winWrite_policy h hx hr, ?_⟩
  obtain ⟨w, _ | _⟩ := r
  · exact ⟨fun k => (hwr k).trans (by simp), by simp [markStale, setWr], rfl⟩
  · have hold : w = wr b (0xFC0000 + off) := by
      have hk := tpolDef_refusesWhole (rwDef_policy hlt ▸ hx) (wr b) (wr b (0xFC0000 + off)) d
      rw [← hr] at hk
      exact hk rfl
    refine ⟨fun k => (hwr k).trans ?_, by simp [flagRaise, setWr], rfl⟩
    by_cases hk : k = 0xFC0000 + off <;> simp [hk, hold]

/-! ## The table stores -/

/-- The words of the store behind a window, for the six switched stores. -/
def storeOf (v : Win) (t : Stores) : Table Word :=
  match v with
  | .bitmaps => t.bitmaps
  | .automata => t.automata
  | .bias => t.bias
  | .penalty => t.penalty
  | .prog => t.prog
  | .freq => t.freq
  | _ => []

/-- The stores with the words of one switched store replaced. -/
def putStore (v : Win) (m : Table Word) (t : Stores) : Stores :=
  match v with
  | .bitmaps => { t with bitmaps := m }
  | .automata => { t with automata := m }
  | .bias => { t with bias := m }
  | .penalty => { t with penalty := m }
  | .prog => { t with prog := m }
  | .freq => { t with freq := m }
  | _ => t

/-- The windows of the switched stores, with the number of the store, the size of an epoch and the page that owns it. -/
def switchedStores : List (Win × Nat × Nat × Page) :=
  [(.bitmaps, 0, 0x200000, .sel), (.automata, 1, 0x80000, .sel), (.bias, 2, 0x80000, .sel),
    (.penalty, 3, 0x2000, .sel), (.prog, 4, 0x20000, .sfu), (.freq, 5, 0x20000, .sfu)]

theorem autoMask_eq : autoMask (off / 4) = placeMask .automata off d := by
  have h : off / 4 % 32 < 26 ↔ off % 128 < 104 := by omega
  simp only [autoMask, placeMask, h]

theorem biasMask_eq : biasMask (off / 4) = placeMask .bias off d := by
  have h : off / 4 % 2 = 0 ↔ off % 8 < 4 := by omega
  simp only [biasMask, placeMask, h]

theorem penMask_eq : penMask (off / 4) = placeMask .penalty off d := by
  have h : off / 4 % 8 < 4 ↔ off % 32 < 16 := by omega
  simp only [penMask, placeMask, h]

theorem progMask_eq : progMask (off / 4) d = placeMask .prog off d := by
  have h1 : off / 4 % 32768 < 2 ↔ off % 0x20000 < 8 := by omega
  have h2 : off / 4 % 32768 < 256 ↔ off % 0x20000 < 0x400 := by omega
  have h3 : off / 4 % 32768 < 512 ↔ off % 0x20000 < 0x800 := by omega
  have hK : 0xFFFFFF00 ||| constMask d =
      if bits d 31 26 = 7 then 0xFFFFFFFF else if bits d 31 26 = 9 then 0xFFFFFF03 else 0xFFFFFF00 := by
    unfold constMask
    by_cases h7 : bits d 31 26 = 7
    · rw [if_pos h7, if_pos h7]; rfl
    by_cases h9 : bits d 31 26 = 9
    · rw [if_neg h7, if_neg h7, if_pos h9, if_pos h9]; rfl
    · rw [if_neg h7, if_neg h7, if_neg h9, if_neg h9]; rfl
  simp only [progMask, placeMask, h1, h2, h3, hK]
  by_cases h8 : off % 0x20000 < 0x800
  · rw [if_pos h8, if_pos (Or.inl h8)]
  by_cases h7 : bits d 31 26 = 7
  · rw [if_neg h8, if_pos h7, if_pos (Or.inr h7)]
  · rw [if_neg h8, if_neg h7, if_neg (not_or.2 ⟨h8, h7⟩)]

theorem freqMask_eq : freqMask (off / 4) = placeMask .freq off d := by
  unfold freqMask
  simp only [placeMask]
  split
  · rw [if_pos (by omega)]
  · rw [if_neg (by omega), if_pos (by omega)]
  · rw [if_neg (by omega), if_neg (by omega), if_pos (by omega)]
  · rw [if_neg (by omega), if_neg (by omega), if_pos (by omega)]
  · next h0 h1 h2 h3 =>
      simp only [imp_false] at h0 h1 h2 h3
      rw [if_neg (by omega), if_neg (by omega), if_neg (by omega)]

/-- A write of a switched store: its epoch's lock decides, and what lands are the places of the word that are not
reserved. -/
theorem winWrite_store (h : (v, k, size, g) ∈ switchedStores) : winWrite v off d b =
    storeWrite k (off / size) g (setStores fun t =>
      putStore v (tset zeroWord (storeOf v t) (off / 4) (d &&& placeMask v off d)) t) b := by
  simp only [switchedStores, List.mem_cons, Prod.mk.injEq, List.not_mem_nil, or_false] at h
  rcases h with ⟨rfl, rfl, rfl, rfl⟩ | ⟨rfl, rfl, rfl, rfl⟩ | ⟨rfl, rfl, rfl, rfl⟩ | ⟨rfl, rfl, rfl, rfl⟩ |
    ⟨rfl, rfl, rfl, rfl⟩ | ⟨rfl, rfl, rfl, rfl⟩
  · rw [show d &&& placeMask .bitmaps off d = d from BitVec.and_allOnes]; rfl
  · rw [← autoMask_eq]; rfl
  · rw [← biasMask_eq]; rfl
  · rw [← penMask_eq]; rfl
  · rw [← progMask_eq]; rfl
  · rw [← freqMask_eq]; rfl

theorem winOwner_store (h : (v, k, size, g) ∈ switchedStores) : winOwner v = some g := by
  simp only [switchedStores, List.mem_cons, Prod.mk.injEq, List.not_mem_nil, or_false] at h
  rcases h with ⟨rfl, -, -, rfl⟩ | ⟨rfl, -, -, rfl⟩ | ⟨rfl, -, -, rfl⟩ | ⟨rfl, -, -, rfl⟩ | ⟨rfl, -, -, rfl⟩ |
    ⟨rfl, -, -, rfl⟩ <;> rfl

/-- A window of a switched store shows the word of its place. -/
theorem winRead_putStore (h : (v, k, size, g) ∈ switchedStores) (m : Table Word) (o : Nat) :
    winRead v o { b with stores := putStore v m b.stores } = tget zeroWord m (o / 4) := by
  simp only [switchedStores, List.mem_cons, Prod.mk.injEq, List.not_mem_nil, or_false] at h
  rcases h with ⟨rfl, -⟩ | ⟨rfl, -⟩ | ⟨rfl, -⟩ | ⟨rfl, -⟩ | ⟨rfl, -⟩ | ⟨rfl, -⟩ <;> rfl

/-- Every other window shows what it did. -/
theorem winRead_putStore_other {u : Win} (h : u ≠ v) (m : Table Word) (o : Nat) :
    winRead u o { b with stores := putStore v m b.stores } = winRead u o b := by
  cases v <;> cases u <;> first | rfl | exact absurd rfl h

theorem putStore_storeOf (t : Stores) : putStore v (storeOf v t) t = t := by cases v <;> rfl

/-- A word of an epoch that is not locked lands, and no other word of any window changes (R144, R178). -/
theorem winWrite_store_lands (h : (v, k, size, g) ∈ switchedStores) (hl : epochLocked b k (off / size) = false) :
    ∃ t : Block, winWrite v off d b = t ∧ winRead v off t = d &&& placeMask v off d ∧
      t = { b with stores := t.stores } ∧
      ∀ (u : Win) (o : Nat), u ≠ v ∨ o / 4 ≠ off / 4 → winRead u o t = winRead u o b := by
  have ht : winWrite v off d b = { b with
      stores := putStore v (tset zeroWord (storeOf v b.stores) (off / 4) (d &&& placeMask v off d)) b.stores } := by
    rw [winWrite_store h, storeWrite, hl]
    rfl
  refine ⟨_, ht, ?_, rfl, fun u o ho => ?_⟩
  · rw [winRead_putStore h, tget_tset_self]
  · by_cases hu : u = v
    · subst hu
      rw [winRead_putStore h, tget_tset_other _ _ (ho.resolve_left (· rfl)), ← winRead_putStore h,
        putStore_storeOf]
    · exact winRead_putStore_other hu _ _

theorem winWrite_store_locked (h : (v, k, size, g) ∈ switchedStores) (hl : epochLocked b k (off / size) = true) :
    winWrite v off d b = flagRaise g (if g = .sfu then 1 else 0) b := by
  rw [winWrite_store h, storeWrite, if_pos hl]

/-- A place of the policy window lies among the records. -/
theorem winAt_policy_lt {sel : Bool} {n : Nat} (h : winAt sel n = some (.policy, off)) : off < 0x10000 := by
  unfold winAt at h
  repeat' split at h
  all_goals simp only [Option.some.injEq, Prod.mk.injEq, reduceCtorEq, false_and, true_and] at h
  omega

/-- Settles O10: one lemma of `winWrite` per window, each behind the acceptance of `does_windowWrite`. -/
theorem tableWindowWrites : Obligations.TableWindowWrites := by
  unfold Obligations.TableWindowWrites
  intro s a d p off hF hi hr hp ha hl
  have hdo : ∀ v, winAt (apertureSel s.blk) a.toNat = some (v, off) →
      (∀ g, winOwner v = some g → gatedOut s.blk g = false) →
      Does (.tableWindowWrite a d p) s (okay (winWrite v off d s.blk)) := by
    intro v hv ho
    have hrep : s.blk.cfg.repairDone = true ∨ v = .repair :=
      hr.imp_right fun h => (Prod.mk.inj (Option.some.inj (hv.symm.trans h))).1
    exact does_windowWrite ⟨hF, hi, hrep, ho⟩ ha hl hv hp
  refine ⟨fun hv => ?_, fun hv => ?_, fun hv => ?_, fun hv => hdo _ hv nofun, fun hv h0C x r hx hm => ?_,
    fun v k size g hs hv hg => ?_⟩
  · have h := hdo _ hv nofun
    exact ⟨fun h1 => winWrite_host (Nat.lt_trans h1 (by decide)) ▸ h, fun h1 h2 => winWrite_host_reserved h1 h2 ▸ h,
      fun h1 => winWrite_blockRegion h1 ▸ h⟩
  · have h := hdo _ hv nofun
    exact ⟨fun h1 => winWrite_dir_unused h1 ▸ h, fun h1 h2 => winWrite_dir_command h1 h2 ▸ h,
      fun h1 h2 => winWrite_dir_locked h1 h2 ▸ h⟩
  · have h := hdo _ hv nofun
    refine ⟨fun h1 => winWrite_bank_locked h1 ▸ h, fun h1 h2 => ?_⟩
    obtain ⟨t, ht, hbank⟩ := winWrite_bank h1 h2
    exact ⟨t, ht ▸ h, hbank⟩
  · have h := hdo _ hv nofun
    obtain ⟨t, ht, htakes⟩ := winWrite_policy_takes (winAt_policy_lt hv) h0C hx hm
    exact ⟨t, ht ▸ h, htakes⟩
  · have h := hdo _ hv fun q hq => (Option.some.inj ((winOwner_store hs).symm.trans hq)) ▸ hg
    refine ⟨fun h1 => winWrite_store_locked hs h1 ▸ h, fun h1 => ?_⟩
    obtain ⟨t, ht, hlands⟩ := winWrite_store_lands hs h1
    exact ⟨t, ht ▸ h, hlands⟩

end Sys2Proof.Proofs
end

section
/-! What a write of a page register does (O8): where an accepted write lands, what a plain register takes, and the
registers whose write acts beyond their value. -/

namespace Sys2Proof.Proofs

open Machine Claims Laws

variable {s : State} {b : Block} {g : Page} {d : Word} {p : BitVec 4} {off a n c : Nat} {x : RwDef}

/-! ## Where the RW registers lie -/

/-- Offsets that mean the same on every page and hold no RW register: the identity, the W1C and read-only words and the
write-only commands (R461, R462). -/
def commonOffsets : List Nat := [0x000, 0x004, 0x00C, 0x010, 0x018, 0x01C, 0x020, 0x024, 0x028, 0x02C, 0x030]

theorem pageDef_common (h : off ∈ commonOffsets) : pageDef g off = none := by
  simp only [commonOffsets, List.mem_cons, List.not_mem_nil, or_false] at h
  rcases h with rfl | rfl | rfl | rfl | rfl | rfl | rfl | rfl | rfl | rfl | rfl <;> cases g <;> rfl

theorem pageDef_counter (h : isCounter g off = true) : pageDef g off = none := by
  cases g <;>
    simp only [isCounter, Bool.or_eq_true, Bool.and_eq_true, decide_eq_true_eq, Bool.false_eq_true, or_assoc] at h
  case rdg =>
    unfold pageDef
    dsimp only
    split
    case h_6 => rfl
    all_goals omega
  case dbg => subst h; rfl
  all_goals rcases h with rfl | rfl | rfl | rfl | rfl <;> rfl

/-- Registers of a page that are commands: their write acts and leaves no value. -/
def isCommand (g : Page) (off : Nat) : Bool :=
  match g with
  | .mer => off = 0x088
  | .sfu => off = 0x090
  | .sel => off = 0x080
  | .smp => off = 0x0B0
  | .xlt => off = 0x080 || off = 0x098
  | _ => false

theorem pageDef_command (h : isCommand g off = true) : pageDef g off = none := by
  cases g <;> simp only [isCommand, Bool.or_eq_true, decide_eq_true_eq, Bool.false_eq_true] at h
  case xlt => rcases h with rfl | rfl <;> rfl
  all_goals subst h; rfl

/-- A register whose write acts beyond its value has one. -/
theorem pageDef_notPlain (h : plainReg g off = false) : (pageDef g off).isSome = true := by
  cases g <;> simp only [plainReg, Bool.not_eq_false', Bool.or_eq_true, decide_eq_true_eq, decide_eq_false_iff_not,
    ne_eq, Decidable.not_not, Bool.true_eq_false, or_assoc] at h
  case pwr => rcases h with rfl | rfl | rfl | rfl | rfl <;> rfl
  all_goals subst h; rfl

/-- An RW register of an address below the windows is IRQ_EN or one that its page lists. -/
theorem rwDef_page (hl : a < 0x500000) (hp : pageAt (a / 0x1000) = some g) : rwDef a =
    if a % 0x1000 = 0x014 then some (plain false (irqMask g) (if g = .glb then 1 else 0))
    else pageDef g (a % 0x1000) := by
  have hb : ¬ (decide (0xFC0000 ≤ a) && decide (a < 0xFD0000)) = true := by
    simp only [Bool.and_eq_true, decide_eq_true_eq]
    omega
  rw [rwDef, if_neg hb, hp]

theorem pageBase_add (hp : pageAt (a / 0x1000) = some g) : pageBase g + a % 0x1000 = a := by
  rw [base_of hp]
  omega

/-- Page `g` has an RW register at this offset. -/
def HasRw (g : Page) (off : Nat) : Prop := off = 0x014 ∨ (pageDef g off).isSome = true

theorem isSome_rwDef (hl : a < 0x500000) (hp : pageAt (a / 0x1000) = some g) :
    (rwDef a).isSome = true ↔ HasRw g (a % 0x1000) := by
  rw [rwDef_page hl hp, HasRw]
  split <;> simp [*]

theorem HasRw.of_none {P : Prop} (h : HasRw g off) (h14 : off ≠ 0x014) (hn : P → pageDef g off = none) : ¬ P := by
  intro hP
  rcases h with h | h
  · exact h14 h
  · simp [hn hP] at h

theorem HasRw.not_common (h : HasRw g off) : off ∉ commonOffsets := by
  by_cases h14 : off = 0x014
  · subst h14
    decide
  · exact h.of_none h14 pageDef_common

theorem HasRw.not_counter (h : HasRw g off) : isCounter g off = false := by
  by_cases h14 : off = 0x014
  · subst h14
    cases g <;> rfl
  · simpa using h.of_none h14 pageDef_counter

theorem HasRw.not_command (h : HasRw g off) : isCommand g off = false := by
  by_cases h14 : off = 0x014
  · subst h14
    cases g <;> rfl
  · simpa using h.of_none h14 pageDef_command

/-- CTR_VAL_HI is no RW register. -/
theorem HasRw.not_ctrShut (h : HasRw g off) : ctrShut b g off = false := by
  cases g
  case ten n =>
    have h9C : off ≠ 0x09C := by
      rintro rfl
      rcases h with h | h <;> cases h
    simp [ctrShut, h9C]
  all_goals rfl

/-- The pages whose CTRL is a plain RW register. -/
theorem HasRw.ctrl (h : HasRw g 0x008) (hp : plainReg g 0x008 = true) : g = .sch ∨ g = .xlt := by
  have hs : (pageDef g 0x008).isSome = true := h.resolve_left (by decide)
  cases g
  case glb => cases hp
  case sch => exact .inl rfl
  case xlt => exact .inr rfl
  all_goals cases hs

/-! ## Plain writes -/

/-- Noting an RW-step write marks the batch formed in advance on the pages a formation reads, and keeps the write through
a page reset that waits (R75, R434). -/
theorem noteStep_eq (g : Page) (k : Nat) (b : Block) : noteStep g k b = { b with reg := { b.reg with
    stale := b.reg.stale || (isStep k && stepPage g)
    sinceReset := b.reg.sinceReset ++
      if isStep k && b.reg.resetPend.contains (pageBase g) then [k] else [] } } := by
  unfold noteStep
  cases isStep k
  · simp
  · cases hc : b.reg.resetPend.contains (pageBase g) <;> cases g <;> simp_all [markStale, stepPage]

/-- BAD_PARAM touches the W1C bits alone. -/
theorem badParam_frame (g : Page) (b : Block) :
    badParam g b = { b with reg := { b.reg with flags := (badParam g b).reg.flags } } := by
  unfold badParam
  cases badBit g <;> rfl

theorem badParam_setWr_flags (g : Page) (k : Nat) (w : Word) (b : Block) :
    (badParam g (setWr k w b)).reg.flags = (badParam g b).reg.flags := by
  unfold badParam
  cases badBit g <;> rfl

/-- A write where a page has no RW register does nothing. -/
theorem plainWrite_none (h : rwDef (pageBase g + off) = none) : plainWrite g off d b = b := by
  simp [plainWrite, rwWrite, h, noteStep, isStep]

/-- The block after a write of `w` to register `k`, with the W1C bits, the mark and the kept writes as given. -/
def written (k : Nat) (w : Word) (flags : Table Word) (stale : Bool) (kept : List Nat) (b : Block) : Block :=
  { b with reg := { b.reg with
    written := tset resetVal b.reg.written k w, flags := flags, stale := stale, sinceReset := kept } }

theorem badParam_written (k : Nat) (w : Word) (b : Block) : badParam g (setWr k w b) =
    written k w (badParam g b).reg.flags b.reg.stale b.reg.sinceReset b := by
  rw [badParam_frame, badParam_setWr_flags]
  rfl

theorem noteStep_written (k : Nat) (w : Word) (flags : Table Word) (b : Block) :
    noteStep g k (written k w flags b.reg.stale b.reg.sinceReset b) =
      written k w flags (b.reg.stale || (isStep k && stepPage g))
        (b.reg.sinceReset ++ if isStep k && b.reg.resetPend.contains (pageBase g) then [k] else []) b :=
  noteStep_eq g k _

section
variable {k : Nat} {r : Word × Bool} {flags : Table Word} {stale : Bool} {kept : List Nat}
  (hr : r = x.merge (wr b) (wr b k) d) (hf : flags = if r.2 then (badParam g b).reg.flags else b.reg.flags)
include hr hf

theorem takes_written (hs : isStep k = false → stale = b.reg.stale ∧ kept = b.reg.sinceReset)
    (hk : b.reg.resetPend.contains (pageBase g) = false → kept = b.reg.sinceReset)
    (ht : isStep k = true → r.2 = false → stale = (b.reg.stale || stepPage g) ∧
      kept = b.reg.sinceReset ++ if b.reg.resetPend.contains (pageBase g) then [k] else []) :
    Takes b g k x d (written k r.1 flags stale kept b) := by
  have hw : ∀ j, wr (written k r.1 flags stale kept b) j = if j = k then r.1 else wr b j :=
    tget_tset resetVal _ _ _
  subst hr
  exact ⟨by rw [hw, if_pos rfl], fun j hj => by rw [hw, if_neg hj], rfl, hf, hs, hk, ht⟩

theorem takes_noted :
    Takes b g k x d (noteStep g k (written k r.1 flags b.reg.stale b.reg.sinceReset b)) := by
  rw [noteStep_written]
  refine takes_written hr hf (fun hs => ?_) (fun hk => ?_) (fun ht _ => ?_)
  · simp [hs]
  · simp only [hk, Bool.and_false, Bool.false_eq_true, if_false, List.append_nil]
  · simp only [ht, Bool.true_and, and_self]

end

/-- A register takes the fields in range, and BAD_PARAM rises where one is not (R12, R17). -/
theorem takes_plainWrite (h : rwDef (pageBase g + off) = some x) :
    Takes b g (pageBase g + off) x d (plainWrite g off d b) := by
  generalize ha : pageBase g + off = k at h
  obtain ⟨r, hr⟩ : ∃ r, r = x.merge (wr b) (wr b k) d := ⟨_, rfl⟩
  have hw : rwWrite k d b = (setWr k r.1 b, r.2) := by simp [rwWrite, h, hr]
  unfold plainWrite
  simp only [ha, hw]
  cases h2 : r.2 with
  | false => exact takes_noted hr (by simp [h2])
  | true =>
    have hf : (badParam g b).reg.flags = if r.2 then (badParam g b).reg.flags else b.reg.flags := by simp [h2]
    rw [if_pos rfl, badParam_written]
    split
    · exact takes_written hr hf (fun _ => ⟨rfl, rfl⟩) (fun _ => rfl) (fun _ h => by simp [h2] at h)
    · exact takes_noted hr hf

/-! ## From the offset to the write -/

theorem regWrite_own (hb : absentAry b g = false) (h : off ∉ [0x008, 0x00C, 0x014, 0x018, 0x028, 0x02C]) :
    regWrite g off d b = ownWrite g off d b := by
  simp only [List.mem_cons, List.not_mem_nil, or_false, not_or] at h
  obtain ⟨h1, h2, h3, h4, h5, h6⟩ := h
  simp [regWrite, hb]

theorem ownWrite_plain (hp : plainReg g off = true) (hc : isCommand g off = false) :
    ownWrite g off d b = plainWrite g off d b := by
  cases g <;> simp only [plainReg, isCommand, decide_eq_true_eq, decide_eq_false_iff_not, ne_eq, Bool.not_eq_true',
    Bool.or_eq_false_iff] at hp hc
  case pwr =>
    obtain ⟨⟨⟨⟨h1, h2⟩, h3⟩, h4⟩, h5⟩ := hp
    simp [ownWrite, pwrWrite]
  case xlt =>
    obtain ⟨h1, h2⟩ := hc
    simp [ownWrite, xltWrite]
  case clk => exact if_neg hp
  case req => exact if_neg hp
  case ten => exact if_neg hp
  case mer => exact if_neg hc
  case sfu => exact if_neg hc
  case sel => exact if_neg hc
  case smp => exact if_neg hc
  all_goals rfl

/-- A plain RW register takes the write as `plainWrite` says, CTRL of a page that has one included. -/
theorem regWrite_plain (hb : absentAry b g = false) (hp : plainReg g off = true) (hx : HasRw g off) :
    regWrite g off d b = plainWrite g off d b := by
  by_cases h14 : off = 0x014
  · subst h14
    simp [regWrite, hb]
  by_cases h08 : off = 0x008
  · subst h08
    rcases hx.ctrl hp with rfl | rfl <;> rfl
  · have hc := hx.not_common
    rw [regWrite_own hb, ownWrite_plain hp hx.not_command]
    simp only [commonOffsets, List.mem_cons, List.not_mem_nil, or_false, not_or] at hc ⊢
    omega

/-- What `inert` says of an offset: no register whose write acts, and no register that a page lists. -/
theorem inert_spec (h : inert g off = true) : rwDef (pageBase g + off) = none ∧ isCommand g off = false ∧
    (off ∉ ([0x008, 0x00C, 0x018, 0x028, 0x02C] : List Nat)) := by
  simp only [inert, Bool.and_eq_true, Option.isNone_iff_eq_none, Bool.not_eq_true', List.contains_eq_mem,
    decide_eq_false_iff_not] at h
  obtain ⟨⟨hx, hc⟩, hg⟩ := h
  refine ⟨hx, ?_, hc⟩
  cases g <;> simp_all [isCommand]

/-- A read-only or a reserved register takes nothing (R12, R13). -/
theorem regWrite_inert (hb : absentAry b g = false) (hx : ¬ HasRw g off) (h : inert g off = true) :
    regWrite g off d b = b := by
  obtain ⟨hn, hcmd, hc⟩ := inert_spec h
  have hp : plainReg g off = true := by
    cases hf : plainReg g off with
    | false => exact absurd (.inr (pageDef_notPlain hf)) hx
    | true => rfl
  have h14 : off ≠ 0x014 := fun he => hx (.inl he)
  rw [regWrite_own hb, ownWrite_plain hp hcmd, plainWrite_none hn]
  simp only [List.mem_cons, List.not_mem_nil, or_false, not_or] at hc ⊢
  omega

/-! ## Registers whose write acts beyond their value -/

theorem regWrite_glbCtrl (h : bit d 1 = false) : regWrite .glb 0x008 d b = plainWrite .glb 0x008 d b := by
  have he : regWrite .glb 0x008 d b = if bit d 1 then fatal 0x18 0 (plainWrite .glb 0x008 d b)
    else plainWrite .glb 0x008 d b := rfl
  rw [he, h]
  rfl

theorem regWrite_clkDiv : regWrite .clk 0x080 d b = autoState (plainWrite .clk 0x080 d b) := rfl

/-- RUN and THROTTLE follow the levels and STOP; THROTTLE raises PWR's interrupt (R398). -/
theorem autoState_follows (b : Block) : ∃ t, autoState b = t ∧
    t = { b with pwr := { b.pwr with state := t.pwr.state }, reg := { b.reg with irq := t.reg.irq } } ∧
    (b.pwr.state = .run ∨ b.pwr.state = .throttle → t.pwr.state =
      if minDiv b < b.pwr.thLevel ∨ minDiv b < b.pwr.plLevel ∨ b.pwr.stop = true then .throttle else .run) ∧
    (b.pwr.state ≠ .run → b.pwr.state ≠ .throttle → t = b) ∧
    (b.pwr.state = .run → t.pwr.state = .throttle → bit (irqStat .pwr t) 1 = true) := by
  refine ⟨_, rfl, ?_⟩
  have hhot : (decide (minDiv b < b.pwr.thLevel) || decide (minDiv b < b.pwr.plLevel) || b.pwr.stop) = true ↔
      minDiv b < b.pwr.thLevel ∨ minDiv b < b.pwr.plLevel ∨ b.pwr.stop = true := by simp [or_assoc]
  simp only [← hhot]
  unfold autoState
  cases hst : b.pwr.state with
  | run =>
    dsimp only
    split
    · exact ⟨rfl, fun _ => rfl, nofun, fun _ _ => raised_bit b.reg.irq (pageBase .pwr) 1 (by decide)⟩
    · exact ⟨rfl, fun _ => hst, fun _ _ => rfl, fun _ h => by rw [hst] at h; cases h⟩
  | throttle =>
    dsimp only
    split
    · exact ⟨rfl, fun _ => hst, fun _ _ => rfl, nofun⟩
    · exact ⟨rfl, fun _ => rfl, nofun, nofun⟩
  | drain => exact ⟨rfl, by simp, fun _ _ => rfl, nofun⟩
  | retain => exact ⟨rfl, by simp, fun _ _ => rfl, nofun⟩
  | offReady => exact ⟨rfl, by simp, fun _ _ => rfl, nofun⟩

theorem regWrite_cost (hc : c < 4) : regWrite .pwr (0x08C + 4 * c) d b = costWrite c d b := by
  have h4 : c = 0 ∨ c = 1 ∨ c = 2 ∨ c = 3 := by omega
  rcases h4 with rfl | rfl | rfl | rfl <;> rfl

theorem costWrite_zero : costWrite c 0 b = plainWrite .pwr (0x08C + 4 * c) 0 b := rfl

theorem costWrite_restarts (h : d ≠ 0) : costWrite c d b =
    let t := plainWrite .pwr (0x08C + 4 * c) d b
    { t with pwr := { t.pwr with
      corr := setNth t.pwr.corr c 0x1000, corrAcc := setNth t.pwr.corrAcc c 0, corrCnt := setNth t.pwr.corrCnt c 0 } } :=
  if_neg h

theorem spillNWrite_refused (h : ∃ e, e ∈ b.dir ∧ e.2.state ≠ .free ∧ bits d 14 0 ≤ e.1) :
    spillNWrite d b = badParam .req b := by
  refine if_pos ?_
  simpa [and_assoc] using h

theorem spillNWrite_taken (h : ∀ e, e ∈ b.dir → e.2.state ≠ .free → e.1 < bits d 14 0) :
    spillNWrite d b = plainWrite .req 0x0B4 d b := by
  refine if_neg ?_
  simpa using h

theorem ctrSelWrite_inRange {first : Nat} (hf : first = bits (rf b (tpolReg n 0x10)) 15 0)
    (h : first ≤ bits d 15 0 ∧ bits d 15 0 < first + bits (rf b (tpolReg n 0x14)) 16 0) :
    ctrSelWrite n d b = plainWrite (.ten n) 0x094 d b := by
  subst hf
  exact if_pos (by simpa using h)

theorem ctrSelWrite_outside {first : Nat} (hf : first = bits (rf b (tpolReg n 0x10)) 15 0)
    (h : bits d 15 0 < first ∨ first + bits (rf b (tpolReg n 0x14)) 16 0 ≤ bits d 15 0) :
    ctrSelWrite n d b = badParam (.ten n) (plainWrite (.ten n) 0x094 d b) := by
  subst hf
  refine if_neg ?_
  simp only [Bool.and_eq_true, decide_eq_true_eq]
  omega

/-! ## W1C registers -/

theorem flagWord_flagClear (g : Page) (w : Word) (b : Block) : flagWord g (flagClear g w b) = flagWord g b &&& ~~~w :=
  tget_tset_self _ _ _ _

theorem flagWord_flagClear_other {q : Page} (w : Word) (b : Block) (h : pageBase q ≠ pageBase g) :
    flagWord q (flagClear g w b) = flagWord q b := tget_tset_other _ _ h

theorem irqStat_irqClear (g : Page) (w : Word) (b : Block) : irqStat g (irqClear g w b) = irqStat g b &&& ~~~w :=
  tget_tset_self _ _ _ _

theorem irqStat_irqClear_other {q : Page} (w : Word) (b : Block) (h : pageBase q ≠ pageBase g) :
    irqStat q (irqClear g w b) = irqStat q b := tget_tset_other _ _ h

/-! ## Reads -/

theorem mixed_plain (h : plainReg g off = true) : mixed g off = false := by
  cases g <;> simp_all [plainReg, mixed]

/-- A plain RW register stands as written, CTRL of a page that has one included. -/
theorem liveReg_plain (hp : plainReg g off = true) (hx : HasRw g off)
    (hr : (rwDef (pageBase g + off)).isSome = true) : liveReg b g off = wr b (pageBase g + off) := by
  by_cases h08 : off = 0x008
  · subst h08
    rcases hx.ctrl hp with rfl | rfl <;> rfl
  · have hc := hx.not_common
    simp only [commonOffsets, List.mem_cons, List.not_mem_nil, or_false, not_or] at hc
    obtain ⟨h1, h2, h3, h4, h5, h6, h7, h8, h9, h10, h11⟩ := hc
    simp [liveReg, hx.not_counter, mixed_plain hp, hr]

/-- A plain RW register that no read latches is read as it stands. -/
theorem readReg_plain (hb : absentAry b g = false) (hp : plainReg g off = true) (hx : HasRw g off)
    (hr : (rwDef (pageBase g + off)).isSome = true) (hl : isLatched (pageBase g + off) = false) :
    readReg b g off = wr b (pageBase g + off) := by
  simp [readReg, hb, hx.not_ctrShut, hl, liveReg_plain hp hx hr]

/-- A read copies registers into their holds and touches nothing else (R463). -/
theorem latchRead_frame (b : Block) :
    latchRead g off b = { b with reg := { b.reg with holds := (latchRead g off b).reg.holds } } := by
  unfold latchRead
  split <;> rfl

/-- A read of an open page answers what the register shows. -/
theorem exec_latchingRead_page {a : BitVec 24} (hl : a.toNat < 0x500000) (h4 : a.toNat % 4 = 0)
    (hp : pageAt (a.toNat / 0x1000) = some g) (hA : PortOpen s.blk g) : exec (.latchingRead a) s =
    .next { s with blk := respond 0 (readReg s.blk g (a.toNat % 0x1000)) (latchRead g (a.toNat % 0x1000) s.blk) } := by
  obtain ⟨ht, hr, hf, hg⟩ := hA
  have hT : target a.toNat false false s.blk = .reg g (a.toNat % 0x1000) := by
    simp [target, hf, h4, hl, hp, targetPage, hg]
  rw [exec_latchingRead, mission_next _ ht]
  simp [portRead, hr, hT]

/-- Settles O8: every clause is what `regWrite` makes of the offset, behind the acceptance of `port_reg`. -/
theorem registerWriteTakes : Obligations.RegisterWriteTakes := by
  unfold Obligations.RegisterWriteTakes
  intro s a g d p off hl h4 hp hb hoff
  have hbase : pageBase g + off = a.toNat := hoff ▸ pageBase_add hp
  have hdo : ∀ b, Accepts s.blk g d p → regWrite g off d s.blk = b → Does (.registerWrite a d p) s (okay b) := by
    rintro b hA rfl
    exact port_reg off h4 hl hp hoff.symm hA
  have hrw : (rwDef a.toNat).isSome = true ↔ HasRw g off := hoff ▸ isSome_rwDef hl hp
  refine ⟨fun x hx hA => ?_, fun hA h0C => ?_, fun hA h18 => ?_, fun hA hin => ?_, fun hA hx hpl hlat => ?_⟩
  · have htakes : Takes s.blk g a.toNat x d (plainWrite g off d s.blk) := by
      rw [← hbase] at hx ⊢
      exact takes_plainWrite hx
    refine ⟨fun h => ⟨_, htakes, hdo _ hA ?_⟩, ?_, ?_, ?_, ?_⟩
    · rcases h with hpl | ⟨rfl, rfl, hd⟩
      · exact regWrite_plain hb hpl (hrw.1 (by simp [hx]))
      · exact regWrite_glbCtrl hd
    · rintro rfl rfl
      obtain ⟨t, ht, hfollows⟩ := autoState_follows (plainWrite .clk 0x080 d s.blk)
      exact ⟨_, t, htakes, hdo _ hA (regWrite_clkDiv.trans ht), hfollows⟩
    · rintro c hc rfl rfl
      refine ⟨_, htakes, ?_, fun h => hdo _ hA ((regWrite_cost hc).trans (costWrite_restarts h))⟩
      rintro rfl
      exact hdo _ hA ((regWrite_cost hc).trans costWrite_zero)
    · rintro rfl rfl
      exact ⟨fun h => hdo _ hA (spillNWrite_refused h), fun h => ⟨_, htakes, hdo _ hA (spillNWrite_taken h)⟩⟩
    · rintro n first rfl rfl hf
      exact ⟨_, htakes, fun h => hdo _ hA (ctrSelWrite_inRange hf h), fun h => hdo _ hA (ctrSelWrite_outside hf h)⟩
  · subst h0C
    refine ⟨flagClear g d s.blk, hdo _ hA (if_neg (by simp [hb])), flagWord_flagClear .., fun q hq => ?_, rfl⟩
    exact flagWord_flagClear_other _ _ hq
  · subst h18
    refine ⟨irqClear g d s.blk, hdo _ hA (if_neg (by simp [hb])), irqStat_irqClear .., fun q hq => ?_, rfl⟩
    exact irqStat_irqClear_other _ _ hq
  · have hn : ¬ HasRw g off := by
      rw [← hrw, ← hbase, (inert_spec hin).1]
      decide
    exact hdo _ hA (regWrite_inert hb hn hin)
  · have hread := readReg_plain hb hpl (hrw.1 hx) (hbase.symm ▸ hx) (hbase.symm ▸ hlat)
    rw [exec_latchingRead_page hl h4 hp hA, ← hoff, hread, hbase, latchRead_frame]
    exact ⟨_, rfl, rfl, rfl⟩

end Sys2Proof.Proofs
end
